-- ==== Sys2Proof/Word.lean ====
section
/-!
DEFINITION. The words XMYM-PE handles (spec/00_scope.md R10, spec/30_encoding.md R106): the byte of the channel and
of the frame buffer, and the 3-bit host command word. All arithmetic on them is unsigned and wraps.
-/

namespace Sys2Proof

/-- A byte, bits 7 (most significant) down to 0 (R10). -/
abbrev Byte := BitVec 8

/-- A host command word `CMD[2:0]` (R106). -/
abbrev CmdWord := BitVec 3

end Sys2Proof
end

