-- ==== Sys2Proof/Config.lean ====
section
/-!
DEFINITION. What is fixed for the block and what an implementation chooses (spec/00_scope.md R9): the control byte
values and sizes, the parameters as plain data, the turns of the agents (R14), and the free values
(checksum functions other than the defaults, endless sequences of turns).
-/

namespace Sys2Proof

/-! The control byte values, "fixed by the protocol, not configurable" (spec/30_encoding.md R100). -/

def SOH : Byte := 0x01#8
def STX : Byte := 0x02#8
def EOT : Byte := 0x04#8
def ACK : Byte := 0x06#8
def NAK : Byte := 0x15#8
def CAN : Byte := 0x18#8
def CPMEOF : Byte := 0x1A#8
/-- The byte 'C', the CRC-16 request. -/
def CRQ : Byte := 0x43#8

namespace Config

/-! The fixed sizes of R9. -/

def bShort : Nat := 128
def bLong : Nat := 1024
def lSum8 : Nat := 1
def lCrc16 : Nat := 2
/-- Frame buffer bytes: B_LONG + L_CRC16. -/
def fbSize : Nat := 1026

/-- The six deadlines `TimerStart` names (spec/30_encoding.md R108; codes 6 and 7 are reserved and never issued). -/
inductive TimerSel where
  | txHs
  | rxHs
  | txResp
  | rxBlk
  | rxNext
  | txEot
  deriving DecidableEq, Repr

/-- Which checksum functions `CK_SUM8` and `CK_CRC16` are (R9, R111): the defaults of R112 and R113, or another
deterministic pair, of which nothing is known (DESIGN CHOICE, safe, entry 5). -/
inductive ChecksumUnit where
  | standard
  | other (n : Nat)
  deriving DecidableEq, Repr

/-- FREE VALUE (entry 5): `CK_SUM8` of the n-th checksum unit that is not the default; its one trailer byte. -/
opaque ckSum8Other : Nat → List Byte → Byte

/-- FREE VALUE (entry 5): `CK_CRC16` of the n-th checksum unit that is not the default; its two trailer bytes in
wire order. -/
opaque ckCrc16Other : Nat → List Byte → Byte × Byte

/-- One turn of one agent (spec/00_scope.md R14, R15; entry 1). -/
inductive Turn where
  /-- the engine polls (R252) -/
  | engine
  /-- the host presents a command word with its strobe (R284, R285) -/
  | host (w : CmdWord)
  /-- a byte of the peer arrives in RX (R75) -/
  | peer (b : Byte)
  /-- the running deadline elapses (R321) -/
  | timer
  /-- the host presents another byte sequence on the SRC port (R284) -/
  | bindSrc (bs : List Byte)
  /-- the host asserts RST (R340) -/
  | reset
  deriving DecidableEq, Repr, Inhabited

/-- FREE VALUE (entry 26): the k-th turn of the n-th endless sequence of turns (93 U5: the peer may send "any finite or
infinite byte sequence, at any steps"). -/
opaque endlessTurn (n k : Nat) : Turn

/-- The parameters of R9 that are not fixed. Durations are in milliseconds; no rule reads them (D3, entry 17). -/
structure Params where
  nMaxErr : BitVec 8
  nRxHs : BitVec 8
  nRxNext : BitVec 8
  nTxEot : BitVec 8
  drainOnReject : Bool
  checksum : ChecksumUnit
  wSrc : Nat
  tTxHs : Nat
  tRxHs : Nat
  tTxResp : Nat
  tRxBlk : Nat
  tRxNext : Nat
  tTxEot : Nat
  tPoll : Nat
  deriving DecidableEq, Repr

/-- The document's values (R9). W_SRC is OPEN in R9: 32 is the model's (DESIGN CHOICE, entry 6). -/
def Params.default : Params where
  nMaxErr := 10
  nRxHs := 10
  nRxNext := 10
  nTxEot := 10
  drainOnReject := true
  checksum := .standard
  wSrc := 32
  tTxHs := 60000
  tRxHs := 3000
  tTxResp := 10000
  tRxBlk := 1000
  tRxNext := 1000
  tTxEot := 1000
  tPoll := 10

/-- The duration the external timer gives each selector (R108). -/
def Params.duration (p : Params) : TimerSel → Nat
  | .txHs => p.tTxHs
  | .rxHs => p.tRxHs
  | .txResp => p.tTxResp
  | .rxBlk => p.tRxBlk
  | .rxNext => p.tRxNext
  | .txEot => p.tTxEot

/-- "Every count parameter is an integer from 1 to 255", and W_SRC is at least 1 (R9). -/
abbrev Params.wf (p : Params) : Prop :=
  p.nMaxErr ≠ 0 ∧ p.nRxHs ≠ 0 ∧ p.nRxNext ≠ 0 ∧ p.nTxEot ≠ 0 ∧ 1 ≤ p.wSrc

end Config

end Sys2Proof
end

