-- ==== Sys2Proof/Syntax.lean ====
section
/-!
DEFINITION. The instructions of XMYM-PE: one constructor per row of spec/opcode_table.json
(spec/30_encoding.md R100, R101, R106, R118).
-/

namespace Sys2Proof

/-- What the block can be given: a byte of the input side of the channel, by its class (R101), or a host command
(R106). CPMEOF has its own row of the table; R101 counts it in the class OTHER, and it acts as that class (entry 15). -/
inductive Instr where
  | soh
  | stx
  | eot
  | ack
  | nak
  | can
  | cpmeof
  | crq
  /-- any byte value no row above has -/
  | other (b : Byte)
  | nop (opt : Bool)
  /-- `opt` is `use_1k_blocks` -/
  | send (opt : Bool)
  /-- `opt` is `use_crc16` -/
  | receive (opt : Bool)
  | cancel (opt : Bool)
  deriving DecidableEq, Repr

end Sys2Proof
end

