-- ==== Sys2Proof/WellFormed.lean ====
section
/-!
DEFINITION. Which terms of `Instr` stand for an instruction (spec/30_encoding.md R101): a byte of the class OTHER is
none of the bytes that have a row of their own.
-/

namespace Sys2Proof

/-- The bytes with a row of their own in the opcode table (R100). -/
def controlBytes : List Byte := [SOH, STX, EOT, ACK, NAK, CAN, CPMEOF, CRQ]

/-- The one check on a term: `other b` only for a byte without a row of its own. Every host command is well formed
(R107). -/
def Instr.wf : Instr → Bool
  | .soh => true
  | .stx => true
  | .eot => true
  | .ack => true
  | .nak => true
  | .can => true
  | .cpmeof => true
  | .crq => true
  | .other b => !controlBytes.contains b
  | .nop _ => true
  | .send _ => true
  | .receive _ => true
  | .cancel _ => true

end Sys2Proof
end

