-- ==== Sys2Proof/Decode.lean ====
section
/-!
DEFINITION. Decoding and encoding (spec/30_encoding.md R100, R101, R106, R107, R116). The block reads words on two
ports: bytes on the input side of the channel, command words on CMD. Every word of either port decodes.
-/

namespace Sys2Proof

/-- The two ports a word can stand on. -/
inductive Port where
  | wire
  | command
  deriving DecidableEq, Repr

/-- The width of a port's word in bits (44 R284). -/
def Port.width : Port → Nat
  | .wire => 8
  | .command => 3

/-- A word on its port. -/
inductive Encoded where
  | byte (b : Byte)
  | cmd (w : CmdWord)
  deriving DecidableEq, Repr

def Encoded.port : Encoded → Port
  | .byte _ => .wire
  | .cmd _ => .command

/-- The word as a number, bit 0 its least significant bit. -/
def Encoded.number : Encoded → Nat
  | .byte b => b.toNat
  | .cmd w => w.toNat

/-- The class of a byte outside a frame, by its full 8-bit value (R101; CPMEOF under its own name, entry 15). -/
def decodeByte (b : Byte) : Instr :=
  if b = SOH then .soh
  else if b = STX then .stx
  else if b = EOT then .eot
  else if b = ACK then .ack
  else if b = NAK then .nak
  else if b = CAN then .can
  else if b = CPMEOF then .cpmeof
  else if b = CRQ then .crq
  else .other b

/-- `OP = CMD[1:0]` (R106). -/
def cmdOp (w : CmdWord) : BitVec 2 := w.extractLsb' 0 2

/-- `OPT = CMD[2]` (R106). -/
def cmdOpt (w : CmdWord) : Bool := w.getLsbD 2

/-- The command of a command word (R106); every word decodes (R107). -/
def decodeCommand (w : CmdWord) : Instr :=
  if cmdOp w = 0b00#2 then .nop (cmdOpt w)
  else if cmdOp w = 0b01#2 then .send (cmdOpt w)
  else if cmdOp w = 0b10#2 then .receive (cmdOpt w)
  else .cancel (cmdOpt w)

def decode : Encoded → Instr
  | .byte b => decodeByte b
  | .cmd w => decodeCommand w

/-- Why a number is no word of a port. -/
inductive DecodeError where
  | widerThanByte
  | widerThanCommand
  deriving DecidableEq, Repr

/-- The decoder on any number given on a port: it rejects by name what does not fit the port, nothing else. -/
def decodeNumber (p : Port) (n : Nat) : Except DecodeError Instr :=
  match p with
  | .wire => if n < 256 then .ok (decodeByte (BitVec.ofNat 8 n)) else .error .widerThanByte
  | .command => if n < 8 then .ok (decodeCommand (BitVec.ofNat 3 n)) else .error .widerThanCommand

/-! The encoder, from the same tables (R100, R106). -/

/-- `CMD` from its fields: OPT is bit 2, OP bits 1 and 0. -/
def cmdWord (opt : Bool) (op : BitVec 2) : CmdWord := BitVec.ofBool opt ++ op

def encode : Instr → Encoded
  | .soh => .byte SOH
  | .stx => .byte STX
  | .eot => .byte EOT
  | .ack => .byte ACK
  | .nak => .byte NAK
  | .can => .byte CAN
  | .cpmeof => .byte CPMEOF
  | .crq => .byte CRQ
  | .other b => .byte b
  | .nop opt => .cmd (cmdWord opt 0b00#2)
  | .send opt => .cmd (cmdWord opt 0b01#2)
  | .receive opt => .cmd (cmdWord opt 0b10#2)
  | .cancel opt => .cmd (cmdWord opt 0b11#2)

/-- The port an instruction arrives on (R118). -/
def Instr.port : Instr → Port
  | .soh => .wire
  | .stx => .wire
  | .eot => .wire
  | .ack => .wire
  | .nak => .wire
  | .can => .wire
  | .cpmeof => .wire
  | .crq => .wire
  | .other _ => .wire
  | .nop _ => .command
  | .send _ => .command
  | .receive _ => .command
  | .cancel _ => .command

/-- Of the rows of the opcode table a byte-wide number matches, the one that fixes most bits: a control byte (all 8
bits), else a command (2 of 3 bits, so the number must fit 3 bits), else OTHER (no bit). The table numbers the words
of two ports in one range, so a number does not say its port (DESIGN CHOICE, entry 13; no step uses this function). -/
def tableRow (w : Nat) : Instr :=
  if controlBytes.contains (BitVec.ofNat 8 w) then decodeByte (BitVec.ofNat 8 w)
  else if w < 8 then decodeCommand (BitVec.ofNat 3 w)
  else decodeByte (BitVec.ofNat 8 w)

/-- The instruction read from a number of the opcode table: a number of fewer than 8 bits is a command word, a
byte-wide one the most specific row it matches (entry 13), and a number that does not fit is refused. -/
def decodeTableWord (nbits w : Nat) : Option Instr :=
  if nbits < 8 then
    match decodeNumber .command w with
    | .ok i => some i
    | .error _ => none
  else if w < 256 then some (tableRow w)
  else none

end Sys2Proof
end

