-- ==== Sys2Proof/Machine/State.lean ====
section
/-!
DEFINITION. The state of XMYM-PE (spec/10_state.md R31, R47, R50; spec/20_memory.md R70), the reasons a step stops,
and the state right after reset (spec/70_reset_and_hazards.md R340).
-/

namespace Sys2Proof.Machine

open Sys2Proof.Config

/-- The FSM state register ST, 4 bits, one constructor per name of R32; `reserved n` is the code 0xA + n. -/
inductive FsmState where
  | idle
  | txHsWait
  | txBlkWait
  | txEotWait
  | rxHsWait
  | rxSeq
  | rxCmpl
  | rxData
  | rxDrain
  | rxNextWait
  | reserved (n : Fin 5)
  | done
  deriving DecidableEq, Repr

/-- ROLE, 1 bit (R33). -/
inductive Role where
  | sender
  | receiver
  deriving DecidableEq, Repr

/-- CKM, 2 bits (R39). -/
inductive ChecksumMode where
  | none
  | sum8
  | crc16
  | reserved
  deriving DecidableEq, Repr

/-- PEND, 2 bits (R43). -/
inductive Pending where
  | none
  | dup
  | invalid
  | reserved
  deriving DecidableEq, Repr

/-- The frame buffer's contents as (address, byte) cells; an address without a cell reads 0x00 (DESIGN CHOICE,
unsafe, entry 7). Addresses are 0 to 1025 (R74). -/
abbrev Memory := List Host.Cell

/-- The one canonical form: addresses strictly rising, inside FB, and no cell that holds what an unlisted address
reads as. -/
abbrev Memory.wf (m : Memory) : Prop :=
  m.Pairwise (fun x y => x.1 < y.1) ∧ ∀ c ∈ m, c.2 ≠ 0x00#8 ∧ c.1 < fbSize

/-- The turns after those a schedule lists one by one: there is always a next one (entries 2, 26). -/
inductive Onward where
  /-- t and then ts, over and over -/
  | repeating (t : Turn) (ts : List Turn)
  /-- the n-th free endless sequence, from its k-th turn on -/
  | free (n k : Nat)
  deriving DecidableEq, Repr

/-- Every turn still to come (entry 1): first the listed ones, soonest first, then the endless rest. -/
structure Schedule where
  turns : List Turn
  onward : Onward
  deriving DecidableEq, Repr

structure State where
  /-- the model's own field: the parameters of R9, which no step changes (entry 4) -/
  params : Params
  /-- register 0, ST (R32) -/
  st : FsmState
  /-- register 1, ROLE (R33) -/
  role : Role
  /-- register 2, BLK1K (R38) -/
  blk1k : Bool
  /-- register 3, CKM (R39) -/
  ckm : ChecksumMode
  /-- register 4, SEQ (R34) -/
  seq : Byte
  /-- register 5, ERR (R35) -/
  err : BitVec 8
  /-- register 6, RTRY (R36) -/
  rtry : BitVec 8
  /-- register 7, LAST (R40): true after an ACK -/
  last : Bool
  /-- register 8, IDX (R41) -/
  idx : BitVec 11
  /-- register 9, RSEQ (R42) -/
  rseq : Byte
  /-- register 10, RCMP (R42) -/
  rcmp : Byte
  /-- register 11, PEND (R43) -/
  pend : Pending
  /-- register 12, CXL (R45) -/
  cxl : Bool
  /-- register 13, RESULT (R44) -/
  result : BitVec 8
  /-- register 14, SPTR (R46); its width is the parameter W_SRC (entry 6) -/
  sptr : Nat
  /-- the frame buffer FB (R47, R74) -/
  fb : Memory
  /-- the unread bytes of the input side, oldest first (R50, R75) -/
  rx : List Byte
  /-- the bytes emitted, in emission order (R50, R76) -/
  tx : List Byte
  /-- the destination sink's contents (R50, R73) -/
  dst : List Byte
  /-- the source sequence fixed when SEND was accepted (R72, R280) -/
  src : List Byte
  /-- what the host presents on the SRC port now (R284) -/
  srcPort : List Byte
  /-- the external timer's last started deadline (R50, R320) -/
  deadline : Option TimerSel
  /-- the timer's expired indication (R50, R321) -/
  expired : Bool
  /-- the model's own field: the turns of the agents still to come (entries 1, 2, 26) -/
  sched : Schedule
  deriving DecidableEq, Repr

/-- Why the machine stops. No state a run reaches from reset raises one (each is safe: the model stops where the
spec gives no behaviour). -/
inductive Fault where
  /-- a byte or poll in a state whose ST is 0xA to 0xE (R32, U7); raised by every wire byte's meaning and by the
  turns of engine and host; safe -/
  | reservedState
  /-- CKM = 0b11 (U8); raised by the turns of engine and host and by whatever needs the trailer length; safe -/
  | reservedChecksumMode
  /-- PEND = 0b11 (U8); raised by the turns of engine and host and by the answer to a drained frame; safe -/
  | reservedPending
  /-- RESULT with bit 7 set, KIND 7 or CAUSE 0xD to 0xF (U8); raised by the turns of engine and host; safe -/
  | reservedResult
  /-- a frame built, checked or drained while CKM = NONE, which R39 says is never done; raised by SendFrame and by
  the data and drain bytes; safe (entry 11) -/
  | checksumModeUnset
  /-- a drained frame answered while PEND = NONE, which R43 gives no meaning; raised by RX_DRAIN's rules; safe
  (entry 11) -/
  | pendingUnset
  /-- a write outside the 1026 bytes of FB, which do not exist (R74); raised by the data byte; safe (entry 11) -/
  | fbOutOfRange
  /-- a read of SRC beyond its end, which does not exist (R72); raised by NextChunk; safe (entry 11) -/
  | srcOutOfRange
  /-- a wire byte's meaning run where that byte is not the oldest unread one: RxPop is not defined there (R250);
  no step does this; safe (entry 12) -/
  | rxByteAbsent
  deriving DecidableEq, Repr

/-- Why an instruction is given no meaning. -/
inductive Refusal where
  /-- raised by exec's arms for an instruction without a meaning yet; safe -/
  | notModelled (mnemonic : String)
  /-- raised by SEND when the length of SRC does not fit the W_SRC bits of SPTR: "refuse the SEND" (U12); safe
  (entry 6) -/
  | sourceTooLong
  deriving DecidableEq, Repr

/-- The machine right after reset (R31's column "HW reset", R340); what the spec does not give (the frame buffer, the
channel, the files, the timer) is the model's choice (entries 7, 8), the parameters the document's values (entry 4);
only the engine moves (entry 2). -/
def State.reset : State where
  params := Params.default
  st := .idle
  role := .sender
  blk1k := false
  ckm := .none
  seq := 0x01#8
  err := 0x00#8
  rtry := 0x00#8
  last := false
  idx := 0#11
  rseq := 0x00#8
  rcmp := 0x00#8
  pend := .none
  cxl := false
  result := 0x00#8
  sptr := 0
  fb := []
  rx := []
  tx := []
  dst := []
  src := []
  srcPort := []
  deadline := none
  expired := false
  sched := { turns := [], onward := .repeating .engine [] }

end Sys2Proof.Machine
end

