-- ==== Sys2Proof/Machine/Flags.lean ====
section
/-!
DEFINITION. Everything the host sees of a state (spec/10_state.md R44, R48, R49, R52; spec/60_exceptions.md R301,
R302; spec/44_host_operations.md R284): the codes of the registers, RESULT with its KIND and CAUSE, BUSY and DONE, the
status readback, and which reserved encodings a state holds.
-/

namespace Sys2Proof.Machine

open Sys2Proof.Config

/-! Register encodings. -/

/-- The code of ST (R32). -/
def FsmState.code : FsmState → BitVec 4
  | .idle => 0x0#4
  | .txHsWait => 0x1#4
  | .txBlkWait => 0x2#4
  | .txEotWait => 0x3#4
  | .rxHsWait => 0x4#4
  | .rxSeq => 0x5#4
  | .rxCmpl => 0x6#4
  | .rxData => 0x7#4
  | .rxDrain => 0x8#4
  | .rxNextWait => 0x9#4
  | .reserved n => 0xA#4 + BitVec.ofNat 4 n.val
  | .done => 0xF#4

/-- The code of ROLE (R31). -/
def Role.code : Role → BitVec 1
  | .sender => 0#1
  | .receiver => 1#1

/-- The code of CKM (R39). -/
def ChecksumMode.code : ChecksumMode → BitVec 2
  | .none => 0b00#2
  | .sum8 => 0b01#2
  | .crc16 => 0b10#2
  | .reserved => 0b11#2

/-- The code of PEND (R43). -/
def Pending.code : Pending → BitVec 2
  | .none => 0b00#2
  | .dup => 0b01#2
  | .invalid => 0b10#2
  | .reserved => 0b11#2

/-- TMR_SEL, the selector a `TimerStart` carries (30 R108). -/
def timerSelCode : TimerSel → BitVec 3
  | .txHs => 0#3
  | .rxHs => 1#3
  | .txResp => 2#3
  | .rxBlk => 3#3
  | .rxNext => 4#3
  | .txEot => 5#3

/-! RESULT. -/

/-- KIND (R301), but for the reserved code 7. -/
inductive Kind where
  | none
  | ok
  | timeout
  | syncLost
  | peerCancelled
  | retryBudgetExceeded
  | localCancellation
  deriving DecidableEq, Repr

def Kind.code : Kind → BitVec 3
  | .none => 0#3
  | .ok => 1#3
  | .timeout => 2#3
  | .syncLost => 3#3
  | .peerCancelled => 4#3
  | .retryBudgetExceeded => 5#3
  | .localCancellation => 6#3

/-- CAUSE (R302), but for the reserved codes 0xD to 0xF. -/
inductive Cause where
  | none
  | txOkAcked
  | txOkUnacked
  | rxOk
  | txHsTimeout
  | rxHsTimeout
  | txTooManyErrors
  | rxTooManyErrors
  | rxNoData
  | rxSyncLost
  | txPeerCanBlock
  | txPeerCanEot
  | localCancel
  deriving DecidableEq, Repr

def Cause.code : Cause → BitVec 4
  | .none => 0x0#4
  | .txOkAcked => 0x1#4
  | .txOkUnacked => 0x2#4
  | .rxOk => 0x3#4
  | .txHsTimeout => 0x4#4
  | .rxHsTimeout => 0x5#4
  | .txTooManyErrors => 0x6#4
  | .rxTooManyErrors => 0x7#4
  | .rxNoData => 0x8#4
  | .rxSyncLost => 0x9#4
  | .txPeerCanBlock => 0xA#4
  | .txPeerCanEot => 0xB#4
  | .localCancel => 0xC#4

/-- "KIND is a function of CAUSE" (R302). -/
def Cause.kind : Cause → Kind
  | .none => .none
  | .txOkAcked => .ok
  | .txOkUnacked => .ok
  | .rxOk => .ok
  | .txHsTimeout => .timeout
  | .rxHsTimeout => .retryBudgetExceeded
  | .txTooManyErrors => .retryBudgetExceeded
  | .rxTooManyErrors => .retryBudgetExceeded
  | .rxNoData => .retryBudgetExceeded
  | .rxSyncLost => .syncLost
  | .txPeerCanBlock => .peerCancelled
  | .txPeerCanEot => .peerCancelled
  | .localCancel => .localCancellation

/-- `KIND << 4 | CAUSE`, bit 7 zero (R44, R302). -/
def Cause.result (c : Cause) : BitVec 8 := 0#1 ++ c.kind.code ++ c.code

/-- RESULT[6:4]. -/
def resultKind (r : BitVec 8) : BitVec 3 := r.extractLsb' 4 3

/-- RESULT[3:0]. -/
def resultCause (r : BitVec 8) : BitVec 4 := r.extractLsb' 0 4

/-! Derived status (R48). -/

/-- `BUSY = (ST != IDLE and ST != DONE)`. -/
def State.busy (s : State) : Bool := s.st != .idle && s.st != .done

/-- `DONE = (ST = DONE)`. -/
def State.isDone (s : State) : Bool := s.st == .done

/-- The source's `Result` of the ended operation: `Ok(())` exactly for these three codes (R286). -/
def resultIsOk (r : BitVec 8) : Bool := r == 0x11#8 || r == 0x12#8 || r == 0x13#8

/-! The status readback (R52, R284). It is no step (R285). -/

/-- The value of the register with a given number (R31); index 15 reads 0. -/
def State.readback (s : State) (idx : BitVec 4) : Nat :=
  match idx.toNat with
  | 0 => s.st.code.toNat
  | 1 => s.role.code.toNat
  | 2 => s.blk1k.toNat
  | 3 => s.ckm.code.toNat
  | 4 => s.seq.toNat
  | 5 => s.err.toNat
  | 6 => s.rtry.toNat
  | 7 => s.last.toNat
  | 8 => s.idx.toNat
  | 9 => s.rseq.toNat
  | 10 => s.rcmp.toNat
  | 11 => s.pend.code.toNat
  | 12 => s.cxl.toNat
  | 13 => s.result.toNat
  | 14 => s.sptr
  | _ => 0

/-- STAT_DATA: the register STAT_IDX selects, zero-extended to max(11, W_SRC) bits (R284). -/
def State.statData (s : State) (idx : BitVec 4) : BitVec (max 11 s.params.wSrc) :=
  BitVec.ofNat (max 11 s.params.wSrc) (s.readback idx)

/-! Reserved encodings (R49; U7, U8; entry 10). -/

/-- RESULT with bit 7 set, KIND 7 or CAUSE 0xD to 0xF. -/
def resultReserved (r : BitVec 8) : Bool :=
  r.getLsbD 7 || resultKind r == 7#3 || 0xD#4 ≤ resultCause r

/-- ST holds one of the codes 0xA to 0xE (R32). -/
def FsmState.isReserved : FsmState → Bool
  | .reserved _ => true
  | .idle => false
  | .txHsWait => false
  | .txBlkWait => false
  | .txEotWait => false
  | .rxHsWait => false
  | .rxSeq => false
  | .rxCmpl => false
  | .rxData => false
  | .rxDrain => false
  | .rxNextWait => false
  | .done => false

/-- The first reserved encoding the state holds, by the fault it raises. -/
def State.reservedField (s : State) : Option Fault :=
  if s.st.isReserved then some .reservedState
  else if s.ckm = .reserved then some .reservedChecksumMode
  else if s.pend = .reserved then some .reservedPending
  else if resultReserved s.result then some .reservedResult
  else none

end Sys2Proof.Machine
end

