-- ==== Sys2Proof/Machine/Ops.lean ====
section
/-!
DEFINITION. The primitives of spec/00_scope.md R12 as operations on the state: the frame buffer, SRC and DST
(spec/20_memory.md), the two sides of the channel (spec/43_byte_io.md), the timer (spec/60_exceptions.md R320, R321),
and ending a session (R305, R306), which takes the place of taking an exception; it has no return (R308).
-/

namespace Sys2Proof.Machine

open Sys2Proof.Config

/-- What one step of the model answers. -/
abbrev Result := Host.Outcome State Fault Refusal

/-! The frame buffer (R74). -/

/-- One byte of FB; an address without a cell reads 0x00 (entry 7). -/
def Memory.read : Memory → Nat → Byte
  | [], _ => 0x00#8
  | (k, v) :: m, a => if k = a then v else Memory.read m a

/-- `MemRead(FB:a, n)`: the n bytes at a..a+n-1. Every read a rule issues lies inside FB (R71, R74). -/
def Memory.readN (m : Memory) (a n : Nat) : List Byte :=
  (List.range n).map (fun i => m.read (a + i))

/-- The cells of bytes laid out from an address up, the canonical form's way: no cell for the byte 0x00. -/
def Memory.cells : Nat → List Byte → Memory
  | _, [] => []
  | a, b :: bs => if b = 0x00#8 then Memory.cells (a + 1) bs else (a, b) :: Memory.cells (a + 1) bs

/-- `MemWrite(FB:a, n, bs)`: the bytes of bs at a..a+n-1, every other byte as it was. -/
def Memory.write (m : Memory) (a : Nat) (bs : List Byte) : Memory :=
  m.filter (fun c => c.1 < a) ++ Memory.cells a bs ++ m.filter (fun c => a + bs.length ≤ c.1)

/-- `MemWrite` on the state's FB, then k; bytes outside 0 to 1025 do not exist (R74). -/
def fbWrite (a : Nat) (bs : List Byte) (k : State → Result) (s : State) : Result :=
  if a + bs.length ≤ fbSize then k { s with fb := s.fb.write a bs } else .fault .fbOutOfRange

/-! The files (R72, R73). -/

/-- `MemRead(SRC:a, n)`; none where the bytes do not all exist. -/
def srcRead (a n : Nat) (s : State) : Option (List Byte) :=
  if a + n ≤ s.src.length then some ((s.src.drop a).take n) else none

/-- `DstAppend(bs)`. -/
def dstAppend (bs : List Byte) (s : State) : State := { s with dst := s.dst ++ bs }

/-! The channel (R250, R255, R256, R257). -/

/-- `RxAvail()`. -/
def rxAvail (s : State) : Bool := !s.rx.isEmpty

/-- `RxPop()`, the first statement of every byte rule, for the rule of the byte b, then k. It is defined only where b
is the oldest unread byte (R250; entry 12). -/
def takeByte (b : Byte) (k : State → Result) (s : State) : Result :=
  match s.rx with
  | [] => .fault .rxByteAbsent
  | h :: t => if h = b then k { s with rx := t } else .fault .rxByteAbsent

/-- `Emit(b1, ..., bn)`: the bytes in TX, in order. The flush has no further effect (R83, R256). -/
def emit (bs : List Byte) (s : State) : State := { s with tx := s.tx ++ bs }

/-- `CancelSignal()`: exactly two CAN bytes (R257). -/
def cancelSignal (s : State) : State := emit [CAN, CAN] s

/-! The timer (R320, R321). -/

/-- `TimerStart(sel)`: replaces any deadline and clears the expired indication. -/
def timerStart (sel : TimerSel) (s : State) : State := { s with deadline := some sel, expired := false }

/-- `TimerExpired()`. -/
def timerExpired (s : State) : Bool := s.expired

/-! Ending a session. -/

/-- What ends a session writes, and nothing else: RESULT and `pc <- DONE` (R305, R306). -/
def endSession (c : Cause) (s : State) : State := { s with result := c.result, st := .done }

/-- `raise Fail(cause)` (R305). -/
def fail (c : Cause) (s : State) : Result := .next (endSession c s)

/-- `Finish(cause)` (R306). -/
def finish (c : Cause) (s : State) : Result := .next (endSession c s)

/-- `LocalCancel()`, the cancel rule of every wait state (R258). -/
def localCancel (s : State) : Result := fail .localCancel (cancelSignal s)

/-- A discarded byte: popped already, nothing else changes (R251). -/
def discardByte (s : State) : Result := .next s

end Sys2Proof.Machine
end

