-- ==== Sys2Proof/Machine/Operands.lean ====
section
/-!
DEFINITION. What a frame is made of (spec/30_encoding.md R102 to R105, R109 to R115; spec/10_state.md R38, R39): block
size and header, sequence arithmetic, the receiver's classification, the padded payload, and the checksum trailer.
-/

namespace Sys2Proof.Machine

open Sys2Proof.Config

/-! Block format (R38, R39, R115). -/

/-- BSZ (R38). -/
def blockSize (blk1k : Bool) : Nat := if blk1k then bLong else bShort

/-- HDR (R38). -/
def header (blk1k : Bool) : Byte := if blk1k then STX else SOH

/-- The receiver's request byte REQ (R115): 'C' for CRC16, else NAK. -/
def requestByte (m : ChecksumMode) : Byte := if m = .crc16 then CRQ else NAK

/-- TLEN (R39); none where no trailer is defined. -/
def trailerLength : ChecksumMode → Option Nat
  | .sum8 => some lSum8
  | .crc16 => some lCrc16
  | .none => none
  | .reserved => none

/-- The fault of a mode without a trailer (R39, U8; entry 11). -/
def modeFault (m : ChecksumMode) : Fault :=
  if m = .reserved then .reservedChecksumMode else .checksumModeUnset

/-! Sequence arithmetic (R104, R109). -/

/-- `next(s) = (s + 1) mod 256`. -/
def seqNext (s : Byte) : Byte := s + 1#8

/-- `prev(s) = (s + 255) mod 256`. -/
def seqPrev (s : Byte) : Byte := s + 255#8

/-- `CMPL = ~SEQ`. -/
def complement (s : Byte) : Byte := ~~~s

/-- The class of a frame by its two header bytes (R110). -/
inductive FrameClass where
  | dup
  | sync
  | invalid
  | candidate
  deriving DecidableEq, Repr

/-- R110, in its order: current value s, sequence byte r, complement byte c. -/
def classify (s r c : Byte) : FrameClass :=
  if r = seqPrev s then .dup
  else if r ≠ s then .sync
  else if c ≠ complement r then .invalid
  else .candidate

/-! Payload (R105). -/

/-- A chunk padded with CPMEOF to exactly n bytes. -/
def padded (n : Nat) (chunk : List Byte) : List Byte :=
  chunk ++ List.replicate (n - chunk.length) CPMEOF

/-! Checksums (R111 to R114). -/

/-- Default CK_SUM8: the sum of the bytes modulo 256 (R112; PRESUMED, general knowledge K1, entry 16). -/
def sum8 (p : List Byte) : Byte := p.foldl (fun acc b => acc + b) 0x00#8

/-- One shift of the CRC register, polynomial 0x1021 (R113). -/
def crcShift (crc : BitVec 16) : BitVec 16 :=
  if crc.getLsbD 15 then (crc <<< 1) ^^^ 0x1021#16 else crc <<< 1

/-- n shifts. -/
def crcShifts : Nat → BitVec 16 → BitVec 16
  | 0, crc => crc
  | n + 1, crc => crcShifts n (crcShift crc)

/-- One byte into the CRC register (R113). -/
def crcByte (crc : BitVec 16) (b : Byte) : BitVec 16 :=
  crcShifts 8 (crc ^^^ (b.zeroExtend 16 <<< 8))

/-- The CRC register after a payload (R113; PRESUMED, general knowledge K2, entry 16). -/
def crc16 (p : List Byte) : BitVec 16 := p.foldl crcByte 0x0000#16

/-- Default CK_CRC16: the register, high byte first (R77, R113; K3). -/
def crc16Trailer (p : List Byte) : List Byte :=
  [(crc16 p).extractLsb' 8 8, (crc16 p).extractLsb' 0 8]

/-- `CkAppend(m, p)` (R111); none for a mode that is never evaluated. -/
def ckAppend (u : ChecksumUnit) (m : ChecksumMode) (p : List Byte) : Option (List Byte) :=
  match m with
  | .none => none
  | .reserved => none
  | .sum8 =>
    match u with
    | .standard => some [sum8 p]
    | .other n => some [ckSum8Other n p]
  | .crc16 =>
    match u with
    | .standard => some (crc16Trailer p)
    | .other n => some [(ckCrc16Other n p).1, (ckCrc16Other n p).2]

/-- `CkVerify(m, p, t) = (CkAppend(m, p) = t)` (R114). -/
def ckVerify (u : ChecksumUnit) (m : ChecksumMode) (p t : List Byte) : Bool :=
  ckAppend u m p == some t

/-! The same, read from the registers. -/

/-- BSZ of the frame or session at hand. -/
def bsz (s : State) : Nat := blockSize s.blk1k

/-- REQ of the session. -/
def req (s : State) : Byte := requestByte s.ckm

/-- The bytes of a frame (R102). -/
def frameBytes (blk1k : Bool) (seq : Byte) (payload trailer : List Byte) : List Byte :=
  header blk1k :: seq :: complement seq :: (payload ++ trailer)

end Sys2Proof.Machine
end

