-- ==== Sys2Proof/Machine/Receiver.lean ====
section
/-!
DEFINITION. The receiver engine (spec/40_handshake.md R140 to R144, spec/42_receiver.md): entering a frame, its field
bytes, the ACK/NAK generator, and the byte and expiry rules of RX_HS_WAIT and RX_NEXT_WAIT. A byte rule is given the
state after its RxPop, and the byte.
-/

namespace Sys2Proof.Machine

open Sys2Proof.Config

/-! The ACK/NAK generator. -/

/-- `EnterNextWait()` (R218). -/
def enterNextWait (s : State) : Result :=
  let s := timerStart .rxNext { s with rtry := 0x00#8 }
  .next { s with st := .rxNextWait }

/-- `Respond(ACCEPT)` (R215). -/
def respondAccept (s : State) : Result :=
  let s := dstAppend (s.fb.readN 0 (bsz s)) s
  let s := { s with seq := seqNext s.seq, err := 0x00#8 }
  let s := emit [ACK] s
  enterNextWait { s with last := true }

/-- `Respond(DUP)` (R216). -/
def respondDup (s : State) : Result :=
  let s := emit [ACK] s
  enterNextWait { s with last := true }

/-- `Respond(INVALID)` (R217). -/
def respondInvalid (s : State) : Result :=
  let n := s.err + 1#8
  let s := { s with err := n }
  if n = s.params.nMaxErr then fail .rxTooManyErrors (cancelSignal s)
  else
    let s := emit [NAK] s
    enterNextWait { s with last := false }

/-- `Respond(PEND)` (R209, R211, R214): the classification made at the complement byte. -/
def respondPending (s : State) : Result :=
  match s.pend with
  | .dup => respondDup s
  | .invalid => respondInvalid s
  | .none => .fault .pendingUnset
  | .reserved => .fault .reservedPending

/-- `SyncLost()` (R207). -/
def syncLost (s : State) : Result := fail .rxSyncLost (cancelSignal s)

/-! The bytes of a frame. -/

/-- `BeginFrame(b)` (R204), with blk1k true for STX. -/
def beginFrame (blk1k : Bool) (s : State) : Result :=
  let s := timerStart .rxBlk { s with blk1k := blk1k }
  .next { s with st := .rxSeq }

/-- RX_SEQ, any byte (R205). -/
def sequenceByte (b : Byte) (s : State) : Result := .next { s with rseq := b, st := .rxCmpl }

/-- A frame rejected at its complement byte: drained first, or answered at once (R206, D10). -/
def reject (p : Pending) (s : State) : Result :=
  if s.params.drainOnReject then .next { s with pend := p, idx := 0#11, st := .rxDrain }
  else if p = .dup then respondDup s
  else respondInvalid s

/-- RX_CMPL, any byte (R206). -/
def complementByte (c : Byte) (s : State) : Result :=
  let s := { s with rcmp := c }
  match classify s.seq s.rseq c with
  | .dup => reject .dup s
  | .sync => syncLost s
  | .invalid => reject .invalid s
  | .candidate => .next { s with idx := 0#11, st := .rxData }

/-- VERIFY, on the last trailer byte (R208). -/
def verifyFrame (tlen : Nat) (s : State) : Result :=
  let p := s.fb.readN 0 (bsz s)
  let t := s.fb.readN (bsz s) tlen
  if ckVerify s.params.checksum s.ckm p t then respondAccept s else respondInvalid s

/-- RX_DATA, any byte (R208). -/
def dataByte (b : Byte) (s : State) : Result :=
  match trailerLength s.ckm with
  | none => .fault (modeFault s.ckm)
  | some tlen =>
    fbWrite s.idx.toNat [b]
      (fun s =>
        let s := { s with idx := s.idx + 1#11 }
        if s.idx.toNat = bsz s + tlen then verifyFrame tlen s else .next s) s

/-- RX_DRAIN, any byte (R209). -/
def drainByte (s : State) : Result :=
  match trailerLength s.ckm with
  | none => .fault (modeFault s.ckm)
  | some tlen =>
    let s := { s with idx := s.idx + 1#11 }
    if s.idx.toNat = bsz s + tlen then respondPending s else .next s

/-- RX_SEQ, RX_CMPL or RX_DATA, deadline expiry (R210). -/
def frameExpiry (s : State) : Result := respondInvalid s

/-- RX_DRAIN, deadline expiry (R211). -/
def drainExpiry (s : State) : Result := respondPending s

/-! RX_HS_WAIT. -/

/-- RX handshake entry (R140). -/
def rxHsEntry (s : State) : State :=
  let s := emit [req s] { s with rtry := 0x00#8 }
  let s := timerStart .rxHs s
  { s with st := .rxHsWait }

/-- Deadline expiry (R143). -/
def rxHsExpiry (s : State) : Result :=
  let n := s.rtry + 1#8
  let s := { s with rtry := n }
  if n = s.params.nRxHs then fail .rxHsTimeout (cancelSignal s)
  else .next (timerStart .rxHs (emit [req s] s))

/-! RX_NEXT_WAIT. -/

/-- Byte EOT (R220). -/
def eotTaken (s : State) : Result := finish .rxOk (emit [ACK] s)

/-- Deadline expiry (R222). -/
def rxNextExpiry (s : State) : Result :=
  let n := s.rtry + 1#8
  let s := { s with rtry := n }
  if n = s.params.nRxNext then fail .rxNoData (cancelSignal s)
  else .next (timerStart .rxNext (emit [if s.last then ACK else NAK] s))

end Sys2Proof.Machine
end

