-- ==== Sys2Proof/Machine/Commands.lean ====
section
/-!
DEFINITION. The meanings of the host commands (spec/44_host_operations.md R280 to R283).
-/

namespace Sys2Proof.Machine

open Sys2Proof.Config

/-- The register writes common to R280 and R281. -/
def sessionRegisters (s : State) : State :=
  { s with
    seq := 0x01#8, err := 0x00#8, rtry := 0x00#8, last := false, idx := 0#11, pend := .none, cxl := false,
    result := 0x00#8, sptr := 0 }

/-- What an accepted SEND leaves (R280, R149): SRC is fixed as the port shows it now. -/
def startSend (opt : Bool) (s : State) : State :=
  let s := { sessionRegisters s with role := .sender, blk1k := opt, ckm := .none, src := s.srcPort }
  let s := timerStart .txHs s
  { s with st := .txHsWait }

/-- What an accepted RECEIVE leaves (R281, R140): DST is empty at the start of the session (D20, entry 9). -/
def startReceive (opt : Bool) (s : State) : State :=
  rxHsEntry
    { sessionRegisters s with
      role := .receiver, blk1k := false, ckm := if opt then .crc16 else .sum8, dst := [] }

/-- NOP: ignored in every state, with either OPT (R283). -/
def execNop (_opt : Bool) (s : State) : Result := .next s

/-- SEND (R280): ignored while BUSY (R283); refused when |SRC| does not fit SPTR (U12, entry 6). -/
def execSend (opt : Bool) (s : State) : Result :=
  if s.busy then .next s
  else if s.srcPort.length < 2 ^ s.params.wSrc then .next (startSend opt s)
  else .refused .sourceTooLong

/-- RECEIVE (R281): ignored while BUSY (R283). -/
def execReceive (opt : Bool) (s : State) : Result :=
  if s.busy then .next s else .next (startReceive opt s)

/-- CANCEL: sets CXL while BUSY (R282), else ignored (R283); OPT is ignored. -/
def execCancel (_opt : Bool) (s : State) : Result :=
  if s.busy then .next { s with cxl := true } else .next s

end Sys2Proof.Machine
end

