-- ==== Sys2Proof/Machine/Sender.lean ====
section
/-!
DEFINITION. The sender engine (spec/40_handshake.md R149 to R153, spec/41_sender.md): the chunk fetch, the frame
emission, the retry decision, and the byte and expiry rules of TX_HS_WAIT, TX_BLK_WAIT and TX_EOT_WAIT. A byte rule is
given the state after its RxPop.
-/

namespace Sys2Proof.Machine

open Sys2Proof.Config

/-- `SendFrame()` (R172). -/
def sendFrame (s : State) : Result :=
  let p := s.fb.readN 0 (bsz s)
  match ckAppend s.params.checksum s.ckm p with
  | none => .fault (modeFault s.ckm)
  | some t =>
    let s := emit (frameBytes s.blk1k s.seq p t) s
    let s := timerStart .txResp s
    .next { s with st := .txBlkWait }

/-- `NextChunk()` (R171): the next frame, or the first EOT. -/
def nextChunk (s : State) : Result :=
  if s.sptr = s.src.length then
    let s := emit [EOT] { s with rtry := 1#8 }
    let s := timerStart .txEot s
    .next { s with st := .txEotWait }
  else
    let n := min (bsz s) (s.src.length - s.sptr)
    match srcRead s.sptr n s with
    | none => .fault .srcOutOfRange
    | some chunk =>
      fbWrite 0 (padded (bsz s) chunk) (fun s => sendFrame { s with sptr := s.sptr + n }) s

/-- `BlockError()` (R177): the counter, then the abort or the same frame again. -/
def blockError (s : State) : Result :=
  let n := s.err + 1#8
  let s := { s with err := n }
  if n = s.params.nMaxErr then fail .txTooManyErrors (cancelSignal s)
  else sendFrame s

/-! TX_HS_WAIT. -/

/-- Byte NAK or 'C': the mode it selects, then the first chunk (R150). -/
def requestTaken (m : ChecksumMode) (s : State) : Result := nextChunk { s with ckm := m }

/-- Deadline expiry (R152). -/
def txHsExpiry (s : State) : Result := fail .txHsTimeout s

/-! TX_BLK_WAIT. -/

/-- Byte ACK (R175). -/
def blockAcked (s : State) : Result := nextChunk { s with seq := seqNext s.seq, err := 0x00#8 }

/-- Byte NAK (R176). -/
def blockNaked (s : State) : Result := blockError s

/-- Byte CAN (R179). -/
def blockCancelled (s : State) : Result := fail .txPeerCanBlock s

/-- Deadline expiry (R178). -/
def txBlkExpiry (s : State) : Result := blockError s

/-! TX_EOT_WAIT. -/

/-- Byte ACK (R182). -/
def eotAcked (s : State) : Result := finish .txOkAcked s

/-- Byte CAN (R184). -/
def eotCancelled (s : State) : Result := fail .txPeerCanEot s

/-- Deadline expiry (R183). -/
def txEotExpiry (s : State) : Result :=
  if s.rtry = s.params.nTxEot then finish .txOkUnacked s
  else
    let s := emit [EOT] { s with rtry := s.rtry + 1#8 }
    .next (timerStart .txEot s)

end Sys2Proof.Machine
end

