-- ==== Sys2Proof/Machine/Wire.lean ====
section
/-!
DEFINITION. The meanings of the wire bytes: one per row of spec/opcode_table.json for the channel's port, each the
byte's column of the event table spec/43_byte_io.md R253.
-/

namespace Sys2Proof.Machine

/-- One byte column of R253. The five arguments are the byte's rules outside a frame; in the four frame states every
byte is a field byte (R101, R253), and in IDLE and DONE the engine does not poll, so the byte stays in RX (R252). -/
def eventColumn (b : Byte) (txHsWait txBlkWait txEotWait rxHsWait rxNextWait : State → Result) (s : State) : Result :=
  match s.st with
  | .txHsWait => takeByte b txHsWait s
  | .txBlkWait => takeByte b txBlkWait s
  | .txEotWait => takeByte b txEotWait s
  | .rxHsWait => takeByte b rxHsWait s
  | .rxSeq => takeByte b (sequenceByte b) s
  | .rxCmpl => takeByte b (complementByte b) s
  | .rxData => takeByte b (dataByte b) s
  | .rxDrain => takeByte b drainByte s
  | .rxNextWait => takeByte b rxNextWait s
  | .idle => .next s
  | .done => .next s
  | .reserved _ => .fault .reservedState

/-- SOH (R151, R180, R185, R141, R219; R204). -/
def execSoh (s : State) : Result :=
  eventColumn SOH (txHsWait := discardByte) (txBlkWait := discardByte) (txEotWait := discardByte)
    (rxHsWait := beginFrame false) (rxNextWait := beginFrame false) s

/-- STX (R151, R180, R185, R141, R219; R204). -/
def execStx (s : State) : Result :=
  eventColumn STX (txHsWait := discardByte) (txBlkWait := discardByte) (txEotWait := discardByte)
    (rxHsWait := beginFrame true) (rxNextWait := beginFrame true) s

/-- EOT (R151, R180, R185, R142, R220). -/
def execEot (s : State) : Result :=
  eventColumn EOT (txHsWait := discardByte) (txBlkWait := discardByte) (txEotWait := discardByte)
    (rxHsWait := discardByte) (rxNextWait := eotTaken) s

/-- ACK (R151, R175, R182, R142, R221). -/
def execAck (s : State) : Result :=
  eventColumn ACK (txHsWait := discardByte) (txBlkWait := blockAcked) (txEotWait := eotAcked)
    (rxHsWait := discardByte) (rxNextWait := discardByte) s

/-- NAK (R150, R176, R185, R142, R221). -/
def execNak (s : State) : Result :=
  eventColumn NAK (txHsWait := requestTaken .sum8) (txBlkWait := blockNaked) (txEotWait := discardByte)
    (rxHsWait := discardByte) (rxNextWait := discardByte) s

/-- CAN (R151, R179, R184, R142, R221). -/
def execCan (s : State) : Result :=
  eventColumn CAN (txHsWait := discardByte) (txBlkWait := blockCancelled) (txEotWait := eotCancelled)
    (rxHsWait := discardByte) (rxNextWait := discardByte) s

/-- CPMEOF, the padding filler: never decoded as a control byte, so the class OTHER (R100, R101; entry 15). -/
def execCpmeof (s : State) : Result :=
  eventColumn CPMEOF (txHsWait := discardByte) (txBlkWait := discardByte) (txEotWait := discardByte)
    (rxHsWait := discardByte) (rxNextWait := discardByte) s

/-- CRQ, the byte 'C' (R150, R180, R185, R142, R221). -/
def execCrq (s : State) : Result :=
  eventColumn CRQ (txHsWait := requestTaken .crc16) (txBlkWait := discardByte) (txEotWait := discardByte)
    (rxHsWait := discardByte) (rxNextWait := discardByte) s

/-- OTHER: discarded outside a frame (R251), a field byte inside one. -/
def execOther (b : Byte) (s : State) : Result :=
  eventColumn b (txHsWait := discardByte) (txBlkWait := discardByte) (txEotWait := discardByte)
    (rxHsWait := discardByte) (rxNextWait := discardByte) s

end Sys2Proof.Machine
end

