-- ==== Sys2Proof/Machine/Dispatch.lean ====
section
/-!
DEFINITION. The dispatch: one arm per row of spec/opcode_table.json.
-/

namespace Sys2Proof.Machine

def exec (i : Instr) (s : State) : Host.Outcome State Fault Refusal :=
  match i with
  -- bytes of the channel (spec/43_byte_io.md R253)
  | .soh => Sys2Proof.Machine.execSoh s
  | .stx => Sys2Proof.Machine.execStx s
  | .eot => Sys2Proof.Machine.execEot s
  | .ack => Sys2Proof.Machine.execAck s
  | .nak => Sys2Proof.Machine.execNak s
  | .can => Sys2Proof.Machine.execCan s
  | .cpmeof => Sys2Proof.Machine.execCpmeof s
  | .crq => Sys2Proof.Machine.execCrq s
  | .other b => Sys2Proof.Machine.execOther b s
  -- host commands (spec/44_host_operations.md R280 to R283)
  | .nop opt => Sys2Proof.Machine.execNop opt s
  | .send opt => Sys2Proof.Machine.execSend opt s
  | .receive opt => Sys2Proof.Machine.execReceive opt s
  | .cancel opt => Sys2Proof.Machine.execCancel opt s

end Sys2Proof.Machine
end

