-- ==== Sys2Proof/Machine/Turns.lean ====
section
/-!
DEFINITION. What each agent's turn does (spec/00_scope.md R14, R15): the engine's poll with its event order
(spec/43_byte_io.md R252, R253), the host's command, the arrival of a byte, the timer's expiry, the SRC binding and
hardware reset (spec/70_reset_and_hazards.md R340), and the order of the turns. Also how an instruction is placed for
the next step to run.
-/

namespace Sys2Proof.Machine

open Sys2Proof.Config

/-! The engine. -/

/-- The expiry column of R253. In IDLE and DONE no expiry is served (R252). -/
def expire (s : State) : Result :=
  match s.st with
  | .txHsWait => txHsExpiry s
  | .txBlkWait => txBlkExpiry s
  | .txEotWait => txEotExpiry s
  | .rxHsWait => rxHsExpiry s
  | .rxSeq => frameExpiry s
  | .rxCmpl => frameExpiry s
  | .rxData => frameExpiry s
  | .rxDrain => drainExpiry s
  | .rxNextWait => rxNextExpiry s
  | .idle => .next s
  | .done => .next s
  | .reserved _ => .fault .reservedState

/-- One poll of a wait state (R252): a byte, else an expiry, else a pending cancellation, else no change. -/
def poll (s : State) : Result :=
  match s.rx with
  | b :: _ => exec (decodeByte b) s
  | [] =>
    if timerExpired s then expire s
    else if s.cxl then localCancel s
    else .next s

/-- The engine's turn: a poll in a wait state; in IDLE and DONE it takes no step (R252; entry 3). A reserved encoding
faults (R32, U7, U8). -/
def engineTurn (s : State) : Result :=
  match s.reservedField with
  | some f => .fault f
  | none => if s.busy then poll s else .next s

/-! The host. -/

/-- A command word with its strobe: one step of its own (R285). -/
def hostTurn (w : CmdWord) (s : State) : Result :=
  match s.reservedField with
  | some f => .fault f
  | none => exec (decodeCommand w) s

/-- Hardware reset (R340): every register at its reset value, FB as State.reset has it (entry 7); RX, TX, SRC, DST and
the external timer stay. -/
def hardwareReset (s : State) : State :=
  { s with
    st := .idle, role := .sender, blk1k := false, ckm := .none, seq := 0x01#8, err := 0x00#8, rtry := 0x00#8,
    last := false, idx := 0#11, rseq := 0x00#8, rcmp := 0x00#8, pend := .none, cxl := false, result := 0x00#8,
    sptr := 0, fb := [] }

/-! The channel and the timer. -/

/-- A byte of the peer arrives (R75). -/
def arrive (b : Byte) (s : State) : State := { s with rx := s.rx ++ [b] }

/-- The running deadline elapses (R321); without a deadline there is nothing to elapse (entry 17). -/
def elapse (s : State) : State := if s.deadline.isSome then { s with expired := true } else s

/-- One turn. -/
def runTurn (t : Turn) (s : State) : Result :=
  match t with
  | .engine => engineTurn s
  | .host w => hostTurn w s
  | .peer b => .next (arrive b s)
  | .timer => .next (elapse s)
  | .bindSrc bs => .next { s with srcPort := bs }
  | .reset => .next (hardwareReset s)

/-! The schedule (entries 1, 2, 26). -/

/-- The next turn. -/
def Schedule.next (c : Schedule) : Turn :=
  match c.turns with
  | t :: _ => t
  | [] =>
    match c.onward with
    | .repeating t _ => t
    | .free n k => endlessTurn n k

/-- The schedule after its next turn. -/
def Schedule.rest (c : Schedule) : Schedule :=
  match c.turns with
  | _ :: ts => { c with turns := ts }
  | [] =>
    match c.onward with
    | .repeating t ts => { turns := ts, onward := .repeating t ts }
    | .free n k => { turns := [], onward := .free n (k + 1) }

/-- The schedule after its next n turns. -/
def Schedule.drop : Nat → Schedule → Schedule
  | 0, c => c
  | n + 1, c => Schedule.drop n c.rest

/-- The next n turns, soonest first. -/
def Schedule.ahead : Nat → Schedule → List Turn
  | 0, _ => []
  | n + 1, c => c.next :: Schedule.ahead n c.rest

/-- The n-th turn to come, from 0. -/
def Schedule.turn (c : Schedule) (n : Nat) : Turn := (Schedule.drop n c).next

/-- The schedule with one more turn in front. -/
def Schedule.cons (t : Turn) (c : Schedule) : Schedule := { c with turns := t :: c.turns }

/-- The turn the schedule gives next, taken off it and run. -/
def scheduledTurn (s : State) : Result := runTurn s.sched.next { s with sched := s.sched.rest }

/-! Placing an instruction where the next step takes it (entry 14). -/

/-- A session in which the byte is polled: the one running, else the one an accepted SEND or RECEIVE starts (a
RECEIVE for the bytes a sender emits, R261). -/
def sessionFor (i : Instr) (s : State) : State :=
  if s.busy then s
  else
    match i with
    | .soh => startReceive false s
    | .stx => startReceive false s
    | .eot => startReceive false s
    | .ack => startSend false s
    | .nak => startSend false s
    | .can => startSend false s
    | .cpmeof => startSend false s
    | .crq => startSend false s
    | .other _ => startSend false s
    | .nop _ => s
    | .send _ => s
    | .receive _ => s
    | .cancel _ => s

/-- The instruction's word on its port, and the turn that takes it. -/
def place (i : Instr) (s : State) : State :=
  match encode i with
  | .cmd w => { s with sched := Schedule.cons (.host w) s.sched }
  | .byte b =>
    let s := sessionFor i s
    { s with rx := b :: s.rx, sched := Schedule.cons .engine s.sched }

/-- The instruction of a number of the opcode table, placed; a number that is no instruction changes nothing. -/
def placeWord (s : State) (nbits w : Nat) : State :=
  match decodeTableWord nbits w with
  | some i => place i s
  | none => s

end Sys2Proof.Machine
end

