-- ==== Sys2Proof/Machine/Step.lean ====
section
/-!
DEFINITION. One step of the machine: one turn of one agent (spec/00_scope.md R15).
-/

namespace Sys2Proof.Machine

def step (s : State) : Host.Outcome State Fault Refusal := scheduledTurn s

/-- The state with an instruction of the opcode table placed where the next step takes it (entry 14). -/
def State.withFetchWord (s : State) (nbits w : Nat) : State := placeWord s nbits w

end Sys2Proof.Machine
end

