-- ==== Sys2Proof/Safety.lean ====
section
/-!
DEFINITION. What counts as a good state of XMYM-PE, in the terms the statements use: the invariants of
spec/10_state.md R32, R33, R37, R39, R44, R46, R49 and spec/60_exceptions.md R303, the sender's frame law
(spec/41_sender.md R173), when two states differ only in what no rule reads (spec/10_state.md R42,
R47), and the frames a receiver does not accept (spec/42_receiver.md R226).
-/

namespace Sys2Proof.Safety

open Sys2Proof Sys2Proof.Machine Sys2Proof.Config

/-- The deadline running in a wait state (R32, last column). -/
def waitDeadline : FsmState → Option TimerSel
  | .txHsWait => some .txHs
  | .txBlkWait => some .txResp
  | .txEotWait => some .txEot
  | .rxHsWait => some .rxHs
  | .rxSeq => some .rxBlk
  | .rxCmpl => some .rxBlk
  | .rxData => some .rxBlk
  | .rxDrain => some .rxBlk
  | .rxNextWait => some .rxNext
  | .idle => none
  | .done => none
  | .reserved _ => none

/-- The role a wait state belongs to (R32, R33). -/
def waitRole : FsmState → Option Role
  | .txHsWait => some .sender
  | .txBlkWait => some .sender
  | .txEotWait => some .sender
  | .rxHsWait => some .receiver
  | .rxSeq => some .receiver
  | .rxCmpl => some .receiver
  | .rxData => some .receiver
  | .rxDrain => some .receiver
  | .rxNextWait => some .receiver
  | .idle => none
  | .done => none
  | .reserved _ => none

/-- The outcomes a wait state can raise (R303). -/
def outcomesOf : FsmState → List Cause
  | .txHsWait => [.txHsTimeout, .localCancel]
  | .txBlkWait => [.txTooManyErrors, .txPeerCanBlock, .localCancel]
  | .txEotWait => [.txOkAcked, .txOkUnacked, .txPeerCanEot, .localCancel]
  | .rxHsWait => [.rxHsTimeout, .localCancel]
  | .rxSeq => [.rxTooManyErrors, .localCancel]
  | .rxCmpl => [.rxSyncLost, .rxTooManyErrors, .localCancel]
  | .rxData => [.rxTooManyErrors, .localCancel]
  | .rxDrain => [.rxTooManyErrors, .localCancel]
  | .rxNextWait => [.rxOk, .rxNoData, .localCancel]
  | .idle => []
  | .done => []
  | .reserved _ => []

/-- The outcomes of a session by its role (R303, last sentence). -/
def outcomesOfRole : Role → List Cause
  | .sender => [.txOkAcked, .txOkUnacked, .txHsTimeout, .txTooManyErrors, .txPeerCanBlock, .txPeerCanEot, .localCancel]
  | .receiver => [.rxOk, .rxHsTimeout, .rxTooManyErrors, .rxNoData, .rxSyncLost, .localCancel]

/-- The invariant of every reachable state. -/
structure Inv (s : State) : Prop where
  /-- R9 -/
  params : s.params.wf
  /-- no reserved encoding (R49) -/
  legal : s.reservedField = none
  /-- FB keeps its canonical form -/
  fbWf : s.fb.wf
  /-- R37 -/
  errBelow : s.st ≠ .done → s.err < s.params.nMaxErr
  /-- "In DONE, ERR and RTRY hold the value reached, which may equal the bound" (R37) -/
  errDone : s.st = .done → s.err ≤ s.params.nMaxErr
  rtryRxHs : s.st = .rxHsWait → s.rtry < s.params.nRxHs
  rtryRxNext : s.st = .rxNextWait → s.rtry < s.params.nRxNext
  rtryTxEot : s.st = .txEotWait → 1#8 ≤ s.rtry ∧ s.rtry ≤ s.params.nTxEot
  /-- R33 -/
  role : ∀ r, waitRole s.st = some r → s.role = r
  /-- R39: NONE in the sender's handshake, chosen in every other wait state -/
  modeOpen : s.st = .txHsWait → s.ckm = .none
  modeSet : s.busy = true → s.st ≠ .txHsWait → s.ckm = .sum8 ∨ s.ckm = .crc16
  /-- R41 -/
  idxInFrame : s.st = .rxData ∨ s.st = .rxDrain → ∀ tl, trailerLength s.ckm = some tl → s.idx.toNat < bsz s + tl
  /-- R43 -/
  pendSet : s.st = .rxDrain → s.pend = .dup ∨ s.pend = .invalid
  /-- the classification of the frame being read (R110, R206) -/
  candidate : s.st = .rxData → s.rseq = s.seq ∧ s.rcmp = complement s.rseq
  drainedDup : s.st = .rxDrain → s.pend = .dup → s.rseq = seqPrev s.seq
  drainedInvalid : s.st = .rxDrain → s.pend = .invalid → s.rseq = s.seq ∧ s.rcmp ≠ complement s.rseq
  /-- R46 -/
  sptrInSrc : s.sptr ≤ s.src.length
  srcFits : s.src.length < 2 ^ s.params.wSrc
  atEnd : s.st = .txEotWait → s.sptr = s.src.length
  /-- R44 -/
  noResultYet : s.st ≠ .done → s.result = 0x00#8
  outcome : s.st = .done → ∃ c ∈ outcomesOfRole s.role, s.result = c.result
  /-- R45, R282, R283 -/
  idleNotCancelled : s.st = .idle → s.cxl = false
  /-- R32, R322 -/
  deadlineRunning : s.busy = true → s.deadline = waitDeadline s.st
  /-- R321: only a started deadline expires -/
  expiredStarted : s.expired = true → s.deadline.isSome = true
  /-- R73: whole blocks only -/
  dstWhole : 128 ∣ s.dst.length

/-- The k-th chunk of the session's source, padded (R105, R171). -/
def chunkOf (s : State) (k : Nat) : List Byte :=
  padded (bsz s) ((s.src.drop ((k - 1) * bsz s)).take (bsz s))

/-- The sender's frame law (R173): in the handshake no chunk is fetched yet; while a block is awaited it is the k-th
chunk for some k from 1 up, FB holds it padded, SEQ is k mod 256 and SPTR is at its end. -/
structure FrameLaw (s : State) : Prop where
  handshake : s.st = .txHsWait → s.seq = 0x01#8 ∧ s.sptr = 0
  block : s.st = .txBlkWait →
    ∃ k, 1 ≤ k ∧ (k - 1) * bsz s < s.src.length ∧ s.sptr = min (k * bsz s) s.src.length ∧
      s.seq = BitVec.ofNat 8 k ∧ s.fb.readN 0 (bsz s) = chunkOf s k

/-- The two states agree on everything a later rule can read (R42, R47): on every field but FB, RSEQ and RCMP; on the
block being sent while a response is awaited; on the bytes of the frame read so far; on RSEQ while the complement byte
is awaited. -/
structure SameButLeftovers (s s' : State) : Prop where
  fields : s' = { s with fb := s'.fb, rseq := s'.rseq, rcmp := s'.rcmp }
  sending : s.st = .txBlkWait → s'.fb.readN 0 (bsz s) = s.fb.readN 0 (bsz s)
  receiving : s.st = .rxData → ∀ a < s.idx.toNat, s'.fb.read a = s.fb.read a
  sequence : s.st = .rxCmpl → s'.rseq = s.rseq

/-! Frames a receiver does not accept (R226). -/

/-- One frame as the peer brings it: its header byte by size, the bytes after it, and whether the frame deadline then
elapses. -/
structure Attempt where
  blk1k : Bool
  body : List Byte
  expires : Bool
  deriving DecidableEq, Repr

/-- Its turns: each byte arrives and is polled; where the deadline elapses, that is polled too. -/
def Attempt.turns (a : Attempt) : List Turn :=
  ((header a.blk1k :: a.body).map (fun b => [Turn.peer b, Turn.engine])).flatten ++
    if a.expires then [Turn.timer, Turn.engine] else []

/-- What comes after the complement byte of a frame rejected there, tl being the trailer's length: with DRAIN_ON_REJECT
the rest of the frame, whole or cut off by the deadline, else nothing (R206, R209, R211). -/
def Attempt.restDrained (a : Attempt) (tl : Nat) (s : State) (rest : List Byte) : Prop :=
  if s.params.drainOnReject then
    (if a.expires then rest.length < blockSize a.blk1k + tl else rest.length = blockSize a.blk1k + tl)
  else rest = [] ∧ a.expires = false

/-- A frame of the block accepted before: its sequence byte is SEQ - 1, whatever its complement (R110). -/
def Attempt.duplicate (a : Attempt) (tl : Nat) (s : State) : Prop :=
  ∃ c rest, a.body = seqPrev s.seq :: c :: rest ∧ a.restDrained tl s rest

/-- A frame the receiver counts as an error: cut off before its complement byte; of the block it expects with a wrong
complement; or with the right one, cut off in its payload or trailer, or whole with a trailer that does not verify
(R206, R208, R210). -/
def Attempt.failed (a : Attempt) (tl : Nat) (s : State) : Prop :=
  (a.body.length ≤ 1 ∧ a.expires = true) ∨
  (∃ c rest, a.body = s.seq :: c :: rest ∧ c ≠ complement s.seq ∧ a.restDrained tl s rest) ∨
  (∃ rest, a.body = s.seq :: complement s.seq :: rest ∧ a.expires = true ∧ rest.length < blockSize a.blk1k + tl) ∨
  (∃ p tr, a.body = s.seq :: complement s.seq :: (p ++ tr) ∧ a.expires = false ∧ p.length = blockSize a.blk1k ∧
    tr.length = tl ∧ ckVerify s.params.checksum s.ckm p tr = false)

/-- The class OTHER: all byte values but the seven with a class of their own, so CPMEOF too (R101). -/
def classOther (b : Byte) : Prop := b ∉ [0x01#8, 0x02#8, 0x04#8, 0x06#8, 0x15#8, 0x18#8, 0x43#8]

/-! Counting turns. -/

/-- How many of the turns are polls of the engine. -/
def polls (ts : List Turn) : Nat := ts.countP (· == .engine)

/-- How many of the turns bring a byte of the peer. -/
def arrivals (ts : List Turn) : Nat :=
  ts.countP (fun t =>
    match t with
    | .peer _ => true
    | .engine => false
    | .host _ => false
    | .timer => false
    | .bindSrc _ => false
    | .reset => false)

/-- The step is a SEND outside a session with a source that does not fit the source pointer (entry 6). -/
def sendsTooLong (s : State) : Prop :=
  ∃ w opt, s.sched.next = .host w ∧ decodeCommand w = .send opt ∧ s.busy = false ∧
    2 ^ s.params.wSrc ≤ s.srcPort.length

/-- The machine stops only by the one refusal U12 names, at a SEND whose source is too long. -/
def goesOn (s : State) : Prop :=
  (∃ t, step s = .next t) ∨ (sendsTooLong s ∧ step s = .refused .sourceTooLong)

/-! What changes SEQ (R34). -/

/-- The step from s to t starts a session or is hardware reset (R280, R281, R340). -/
def startsOrResets (s t : State) : Prop := (s.busy = false ∧ t.busy = true) ∨ s.sched.next = .reset

/-- The step from s to t takes an ACK of a data block (sender, R175) or accepts a block and ACKs it (receiver,
R215). -/
def blockSucceeds (s t : State) : Prop :=
  (s.st = .txBlkWait ∧ ∃ rest, s.rx = 0x06#8 :: rest ∧ t.rx = rest) ∨
  (s.st = .rxData ∧ t.st = .rxNextWait ∧ t.tx = s.tx ++ [0x06#8])

end Sys2Proof.Safety
end

