-- ==== Sys2Proof/Certificates/Slice0/Obligations.lean ====
section
/-!
DEFINITION. The statements about XMYM-PE, each from the rules its docstring names. `exec` is the meaning of one
instruction, `step` one turn of one agent. "(inference)" after a rule says that the spec marks the rule as its own
inference, "(general knowledge)" that the spec marks it as such. A state that meets `reservedField = none` holds no
reserved encoding. The next turn is `s.sched.next`, whether it is listed, part of a repeated period or a free one, and
`s.sched.rest` is the schedule after it; `s.sched.ahead n` are the next n turns, `s.sched.drop n` the schedule after
them (entries 1, 2, 26).
-/

open Sys2Proof Sys2Proof.Machine Sys2Proof.Config Sys2Proof.Safety

/-! ## Encoding -/

/-- Words written out bit by bit from R100 and R106 decode to what they stand for. -/
def Obligations.WrittenOutWordsDecode : Prop :=
  decode (.byte 0b00000001#8) = .soh ∧ decode (.byte 0b00000010#8) = .stx ∧ decode (.byte 0b00000100#8) = .eot ∧
  decode (.byte 0b00000110#8) = .ack ∧ decode (.byte 0b00010101#8) = .nak ∧ decode (.byte 0b00011000#8) = .can ∧
  decode (.byte 0b00011010#8) = .cpmeof ∧ decode (.byte 0b01000011#8) = .crq ∧
  decode (.byte 0b01100011#8) = .other 0x63#8 ∧
  decode (.cmd 0b000#3) = .nop false ∧ decode (.cmd 0b001#3) = .send false ∧ decode (.cmd 0b010#3) = .receive false ∧
  decode (.cmd 0b011#3) = .cancel false ∧ decode (.cmd 0b100#3) = .nop true ∧ decode (.cmd 0b101#3) = .send true ∧
  decode (.cmd 0b110#3) = .receive true ∧ decode (.cmd 0b111#3) = .cancel true

/-- No bit of an encoding is dropped: decoding the encoding of a well-formed instruction gives it back (R100, R101,
R106). -/
def Obligations.DecodeEncodeGivesBack : Prop :=
  ∀ i : Instr, i.wf = true → decode (encode i) = i

/-- Every byte and every command word decodes, to exactly one well-formed instruction of its own port, and two words
never to the same one (R101, R106, R107). -/
def Obligations.EveryWordHasOneMeaning : Prop :=
  ∀ w : Encoded, (decode w).wf = true ∧ (decode w).port = w.port ∧ encode (decode w) = w

/-! ## Frames and checksums -/

/-- The four frame lengths and the place of every field (R102, R103). -/
def Obligations.FrameLayout : Prop :=
  ∀ (u : ChecksumUnit) (m : ChecksumMode) (blk1k : Bool) (seq : Byte) (p tr : List Byte),
    p.length = (if blk1k then 1024 else 128) → ckAppend u m p = some tr →
    (m = .sum8 ∨ m = .crc16) ∧
    (frameBytes blk1k seq p tr).length =
      (match blk1k, m with
        | false, .sum8 => 132
        | false, .crc16 => 133
        | true, .sum8 => 1028
        | true, .crc16 => 1029
        | _, _ => 0) ∧
    (frameBytes blk1k seq p tr)[0]? = some (if blk1k then 0x02#8 else 0x01#8) ∧
    (frameBytes blk1k seq p tr)[1]? = some seq ∧
    (frameBytes blk1k seq p tr)[2]? = some (~~~seq) ∧
    ((frameBytes blk1k seq p tr).drop 3).take p.length = p ∧
    (frameBytes blk1k seq p tr).drop (3 + p.length) = tr

/-- The default 8-bit sum is the sum of the bytes modulo 256 (R112, general knowledge; entry 16). -/
def Obligations.SumTrailerIsSumModulo256 : Prop :=
  ∀ p : List Byte, (sum8 p).toNat = (p.map BitVec.toNat).sum % 256

/-- The default CRC-16 trailer (R113 and R77's byte order, both general knowledge; entry 16). A payload followed by its
trailer, high byte first, leaves the CRC register zero, whatever the payload; and R113's three values, which fix the
polynomial 0x1021 and the initial value 0x0000: "123456789", 128 bytes of 0x00 and 128 bytes of 0x1A. -/
def Obligations.CrcTrailerCancelsAndHasCheckValues : Prop :=
  (∀ p : List Byte, crc16 (p ++ crc16Trailer p) = 0x0000#16) ∧
  ckAppend .standard .crc16 [0x31#8, 0x32#8, 0x33#8, 0x34#8, 0x35#8, 0x36#8, 0x37#8, 0x38#8, 0x39#8] =
    some [0x31#8, 0xC3#8] ∧
  ckAppend .standard .crc16 (List.replicate 128 0x00#8) = some [0x00#8, 0x00#8] ∧
  ckAppend .standard .crc16 (List.replicate 128 0x1A#8) = some [0xF8#8, 0xB0#8]

/-! ## Steps -/

/-- At an engine turn in a wait state the oldest unread byte decides the step, whatever else is pending, and its
meaning runs on the state as it is; a host turn runs the command's meaning. The only thing a step adds is that it takes
its turn off the schedule. -/
def Obligations.StepRunsDecodedInstruction : Prop :=
  (∀ (s : State) (b : Byte) (rest : List Byte),
    s.reservedField = none → s.busy = true → s.rx = b :: rest → s.sched.next = .engine →
    step s = exec (decode (.byte b)) { s with sched := s.sched.rest }) ∧
  (∀ (s : State) (w : CmdWord),
    s.reservedField = none → s.sched.next = .host w →
    step s = exec (decode (.cmd w)) { s with sched := s.sched.rest })

/-- The turns of the other agents (model's choice of form: entry 1): a byte of the peer joins RX at its end in any
state, a running deadline expires, a deadline that was never started does not (entry 17), and the SRC port changes. -/
def Obligations.OtherAgentsTurns : Prop :=
  ∀ s : State,
    (∀ b : Byte, s.sched.next = .peer b → step s = .next { s with sched := s.sched.rest, rx := s.rx ++ [b] }) ∧
    (∀ sel, s.deadline = some sel → s.sched.next = .timer →
      step s = .next { s with sched := s.sched.rest, expired := true }) ∧
    (s.deadline = none → s.sched.next = .timer → step s = .next { s with sched := s.sched.rest }) ∧
    (∀ bs : List Byte, s.sched.next = .bindSrc bs → step s = .next { s with sched := s.sched.rest, srcPort := bs })

/-- At a poll with neither a byte nor an expiry (a suspension point) a pending cancellation emits CAN CAN and ends the
session with 0x6C, in every wait state; without one nothing changes (R258 and the cancel rule of every state). -/
def Obligations.CancellationAtSuspensionPoint : Prop :=
  ∀ s : State, s.reservedField = none → s.busy = true → s.rx = [] → s.expired = false → s.sched.next = .engine →
    (s.cxl = true →
      step s = .next
        { s with sched := s.sched.rest, tx := s.tx ++ [0x18#8, 0x18#8], result := 0x6C#8, st := .done }) ∧
    (s.cxl = false → step s = .next { s with sched := s.sched.rest })

/-- In IDLE and DONE the engine is not polled (R252; R342, inference). What the model makes of that is its own choice
(entry 3, DEDUCED): an engine turn there is a step that changes nothing, whatever is in RX, expired or pending, and
the meaning of a wire byte there, which no rule gives, leaves the state as it is and the byte in RX. -/
def Obligations.IdleAndDoneAreNotPolled : Prop :=
  ∀ s : State, s.st = .idle ∨ s.st = .done →
    (s.reservedField = none → s.sched.next = .engine → step s = .next { s with sched := s.sched.rest }) ∧
    (∀ i : Instr, i.port = .wire → exec i s = .next s)

/-! ## Host commands -/

/-- NOP in any state, SEND and RECEIVE while BUSY and CANCEL while not BUSY change nothing at all (R283); CANCEL while
BUSY sets CXL and changes nothing else (R282); whatever OPT. -/
def Obligations.IgnoredCommandsAndCancel : Prop :=
  ∀ (s : State) (opt : Bool),
    exec (.nop opt) s = .next s ∧
    (s.busy = true → exec (.send opt) s = .next s ∧ exec (.receive opt) s = .next s) ∧
    (s.busy = false → exec (.cancel opt) s = .next s) ∧
    (s.busy = true → exec (.cancel opt) s = .next { s with cxl := true })

/-- SEND is ignored while BUSY. Otherwise, with a source that fits SPTR (R46), it writes the session registers, fixes
SRC, starts T_TX_HS and waits; it changes nothing else (R280, R149). -/
def Obligations.SendStartsSession : Prop :=
  ∀ (s : State) (opt : Bool),
    (s.busy = true → exec (.send opt) s = .next s) ∧
    (s.busy = false → s.srcPort.length < 2 ^ s.params.wSrc →
      exec (.send opt) s = .next
        { s with
          role := .sender, blk1k := opt, ckm := .none, seq := 0x01#8, err := 0x00#8, rtry := 0x00#8, last := false,
          idx := 0#11, pend := .none, cxl := false, result := 0x00#8, sptr := 0, src := s.srcPort,
          deadline := some .txHs, expired := false, st := .txHsWait })

/-- A SEND whose source does not fit the source pointer is refused (93_implementation_defined.md U12; the model's
choice, entry 6). -/
def Obligations.SendRefusedWhenSourceTooLong : Prop :=
  ∀ (s : State) (opt : Bool), s.busy = false → 2 ^ s.params.wSrc ≤ s.srcPort.length →
    exec (.send opt) s = .refused .sourceTooLong

/-- RECEIVE is ignored while BUSY. Otherwise it writes the session registers, emits the request byte, starts T_RX_HS
and waits; it changes nothing else (R281, R140). That DST is empty afterwards is the model's choice (entry 9). -/
def Obligations.ReceiveStartsSession : Prop :=
  ∀ (s : State) (opt : Bool),
    (s.busy = true → exec (.receive opt) s = .next s) ∧
    (s.busy = false →
      exec (.receive opt) s = .next
        { s with
          role := .receiver, blk1k := false, ckm := if opt then .crc16 else .sum8, seq := 0x01#8, err := 0x00#8,
          rtry := 0x00#8, last := false, idx := 0#11, pend := .none, cxl := false, result := 0x00#8, sptr := 0,
          dst := [], tx := s.tx ++ [if opt then 0x43#8 else 0x15#8], deadline := some .rxHs, expired := false,
          st := .rxHsWait })

/-! ## Bytes no rule names -/

/-- Outside a frame a byte the state's rules do not name is popped and nothing else changes: no register, no
emission, no timer start (R142, R151, R180, R185, R221). -/
def Obligations.UnnamedBytesAreDiscarded : Prop :=
  ∀ (s : State) (i : Instr) (b : Byte) (rest : List Byte), encode i = .byte b → s.rx = b :: rest →
    (s.st = .txHsWait ∧ i ≠ .nak ∧ i ≠ .crq) ∨
    (s.st = .txBlkWait ∧ i ≠ .ack ∧ i ≠ .nak ∧ i ≠ .can) ∨
    (s.st = .txEotWait ∧ i ≠ .ack ∧ i ≠ .can) ∨
    (s.st = .rxHsWait ∧ i ≠ .soh ∧ i ≠ .stx) ∨
    (s.st = .rxNextWait ∧ i ≠ .soh ∧ i ≠ .stx ∧ i ≠ .eot) →
    exec i s = .next { s with rx := rest }

/-! ## Sender -/

/-- In TX_HS_WAIT a NAK fixes SUM8 and a 'C' fixes CRC16. With no source byte left the EOT exchange starts; else the
next chunk, padded with 0x1A to the block size, goes into FB, SPTR passes it, and the whole frame goes out with
T_TX_RESP started after it (R150, R171, R172). -/
def Obligations.RequestByteSendsFirstChunk : Prop :=
  ∀ (s : State) (i : Instr) (m : ChecksumMode) (rest : List Byte), s.st = .txHsWait →
    (i = .nak ∧ m = .sum8 ∧ s.rx = 0x15#8 :: rest) ∨ (i = .crq ∧ m = .crc16 ∧ s.rx = 0x43#8 :: rest) →
    (s.sptr = s.src.length →
      exec i s = .next
        { s with
          rx := rest, ckm := m, rtry := 1#8, tx := s.tx ++ [0x04#8], deadline := some .txEot, expired := false,
          st := .txEotWait }) ∧
    (s.sptr < s.src.length →
      ∀ (n : Nat) (p tr : List Byte), n = min (bsz s) (s.src.length - s.sptr) →
      p = (s.src.drop s.sptr).take n ++ List.replicate (bsz s - n) 0x1A#8 →
      ckAppend s.params.checksum m p = some tr →
      exec i s = .next
        { s with
          rx := rest, ckm := m, fb := s.fb.write 0 p, sptr := s.sptr + n,
          tx := s.tx ++ frameBytes s.blk1k s.seq p tr, deadline := some .txResp, expired := false,
          st := .txBlkWait })

/-- In TX_BLK_WAIT an ACK advances SEQ modulo 256, clears ERR, and goes on to the next chunk or the EOT exchange
(R175, R171, R172). -/
def Obligations.AckSendsNextChunk : Prop :=
  ∀ (s : State) (rest : List Byte), s.st = .txBlkWait → s.rx = 0x06#8 :: rest →
    (s.sptr = s.src.length →
      exec .ack s = .next
        { s with
          rx := rest, seq := s.seq + 1#8, err := 0x00#8, rtry := 1#8, tx := s.tx ++ [0x04#8],
          deadline := some .txEot, expired := false, st := .txEotWait }) ∧
    (s.sptr < s.src.length →
      ∀ (n : Nat) (p tr : List Byte), n = min (bsz s) (s.src.length - s.sptr) →
      p = (s.src.drop s.sptr).take n ++ List.replicate (bsz s - n) 0x1A#8 →
      ckAppend s.params.checksum s.ckm p = some tr →
      exec .ack s = .next
        { s with
          rx := rest, seq := s.seq + 1#8, err := 0x00#8, fb := s.fb.write 0 p, sptr := s.sptr + n,
          tx := s.tx ++ frameBytes s.blk1k (s.seq + 1#8) p tr, deadline := some .txResp, expired := false,
          st := .txBlkWait })

/-- In TX_BLK_WAIT a NAK counts one error; the N_MAXERR-th emits CAN CAN and ends the session with 0x56, any other
sends the frame in FB again, unchanged (R176, R177, R172). -/
def Obligations.NakResendsOrAbandons : Prop :=
  ∀ (s : State) (rest : List Byte), s.st = .txBlkWait → s.rx = 0x15#8 :: rest →
    (s.err + 1#8 = s.params.nMaxErr →
      exec .nak s = .next
        { s with
          rx := rest, err := s.err + 1#8, tx := s.tx ++ [0x18#8, 0x18#8], result := 0x56#8, st := .done }) ∧
    (s.err + 1#8 ≠ s.params.nMaxErr →
      ∀ tr : List Byte, ckAppend s.params.checksum s.ckm (s.fb.readN 0 (bsz s)) = some tr →
      exec .nak s = .next
        { s with
          rx := rest, err := s.err + 1#8, tx := s.tx ++ frameBytes s.blk1k s.seq (s.fb.readN 0 (bsz s)) tr,
          deadline := some .txResp, expired := false, st := .txBlkWait })

/-- The same on a response deadline expiry, at a poll that finds no byte, even with a cancellation pending
(R178, R177). -/
def Obligations.ResponseExpiryResendsOrAbandons : Prop :=
  ∀ s : State, s.reservedField = none → s.st = .txBlkWait → s.rx = [] → s.expired = true →
    s.sched.next = .engine →
    (s.err + 1#8 = s.params.nMaxErr →
      step s = .next
        { s with
          sched := s.sched.rest, err := s.err + 1#8, tx := s.tx ++ [0x18#8, 0x18#8], result := 0x56#8, st := .done }) ∧
    (s.err + 1#8 ≠ s.params.nMaxErr →
      ∀ tr : List Byte, ckAppend s.params.checksum s.ckm (s.fb.readN 0 (bsz s)) = some tr →
      step s = .next
        { s with
          sched := s.sched.rest, err := s.err + 1#8, tx := s.tx ++ frameBytes s.blk1k s.seq (s.fb.readN 0 (bsz s)) tr,
          deadline := some .txResp, expired := false, st := .txBlkWait })

/-- The bytes that end a session outside a frame, each in one step. One CAN of the peer ends the sender's session with
no cancel signal: 0x4A while a block is awaited (R179), 0x4B in the EOT exchange (R184). An ACK in the EOT exchange ends
it with success 0x11 (R182). An EOT in RX_NEXT_WAIT is ACKed and ends the receiver's session with success 0x13
(R220). -/
def Obligations.BytesThatEndASession : Prop :=
  ∀ (s : State) (rest : List Byte),
    (s.st = .txBlkWait → s.rx = 0x18#8 :: rest →
      exec .can s = .next { s with rx := rest, result := 0x4A#8, st := .done }) ∧
    (s.st = .txEotWait → s.rx = 0x18#8 :: rest →
      exec .can s = .next { s with rx := rest, result := 0x4B#8, st := .done }) ∧
    (s.st = .txEotWait → s.rx = 0x06#8 :: rest →
      exec .ack s = .next { s with rx := rest, result := 0x11#8, st := .done }) ∧
    (s.st = .rxNextWait → s.rx = 0x04#8 :: rest →
      exec .eot s = .next { s with rx := rest, tx := s.tx ++ [0x06#8], result := 0x13#8, st := .done })

/-- An expiry in the EOT exchange sends EOT again, and at the last attempt ends the session with success 0x12 and no
cancel signal (R183). -/
def Obligations.EotExpiryRepeatsOrEnds : Prop :=
  ∀ s : State, s.reservedField = none → s.st = .txEotWait → s.rx = [] → s.expired = true →
    s.sched.next = .engine →
    (s.rtry = s.params.nTxEot → step s = .next { s with sched := s.sched.rest, result := 0x12#8, st := .done }) ∧
    (s.rtry ≠ s.params.nTxEot →
      step s = .next
        { s with
          sched := s.sched.rest, rtry := s.rtry + 1#8, tx := s.tx ++ [0x04#8], deadline := some .txEot,
          expired := false })

/-- The sender's handshake deadline ends the session with 0x24 and emits nothing (R152). -/
def Obligations.SenderHandshakeTimeout : Prop :=
  ∀ s : State, s.reservedField = none → s.st = .txHsWait → s.rx = [] → s.expired = true →
    s.sched.next = .engine →
    step s = .next { s with sched := s.sched.rest, result := 0x24#8, st := .done }

/-! ## Receiver -/

/-- A SOH or STX in RX_HS_WAIT or RX_NEXT_WAIT begins a frame: BLK1K from the header, T_RX_BLK started (R141, R204,
R219). Then in RX_SEQ any byte, control bytes included, is the sequence byte; the deadline keeps running (R205). -/
def Obligations.FrameHeaderIsRead : Prop :=
  ∀ (s : State) (rest : List Byte),
    (s.st = .rxHsWait ∨ s.st = .rxNextWait →
      (s.rx = 0x01#8 :: rest →
        exec .soh s = .next
          { s with rx := rest, blk1k := false, deadline := some .rxBlk, expired := false, st := .rxSeq }) ∧
      (s.rx = 0x02#8 :: rest →
        exec .stx s = .next
          { s with rx := rest, blk1k := true, deadline := some .rxBlk, expired := false, st := .rxSeq })) ∧
    (∀ (i : Instr) (b : Byte), encode i = .byte b → s.st = .rxSeq → s.rx = b :: rest →
      exec i s = .next { s with rx := rest, rseq := b, st := .rxCmpl })

/-- In RX_CMPL any byte is the complement byte, and the frame is classified: SEQ - 1 is a duplicate whatever the
complement; else another value than SEQ is fatal (CAN CAN, 0x39); else a wrong complement is invalid; else the frame
is a candidate. A duplicate or invalid frame is drained, or answered at once where DRAIN_ON_REJECT is false (R206,
R207). -/
def Obligations.ComplementByteClassifies : Prop :=
  ∀ (s : State) (i : Instr) (c : Byte) (rest : List Byte), encode i = .byte c → s.st = .rxCmpl → s.rx = c :: rest →
    (s.rseq = s.seq + 255#8 → s.params.drainOnReject = true →
      exec i s = .next { s with rx := rest, rcmp := c, pend := .dup, idx := 0#11, st := .rxDrain }) ∧
    (s.rseq = s.seq + 255#8 → s.params.drainOnReject = false →
      exec i s = .next
        { s with
          rx := rest, rcmp := c, tx := s.tx ++ [0x06#8], last := true, rtry := 0x00#8, deadline := some .rxNext,
          expired := false, st := .rxNextWait }) ∧
    (s.rseq ≠ s.seq + 255#8 → s.rseq ≠ s.seq →
      exec i s = .next
        { s with rx := rest, rcmp := c, tx := s.tx ++ [0x18#8, 0x18#8], result := 0x39#8, st := .done }) ∧
    (s.rseq = s.seq → c ≠ ~~~s.rseq → s.params.drainOnReject = true →
      exec i s = .next { s with rx := rest, rcmp := c, pend := .invalid, idx := 0#11, st := .rxDrain }) ∧
    (s.rseq = s.seq → c ≠ ~~~s.rseq → s.params.drainOnReject = false → s.err + 1#8 = s.params.nMaxErr →
      exec i s = .next
        { s with
          rx := rest, rcmp := c, err := s.err + 1#8, tx := s.tx ++ [0x18#8, 0x18#8], result := 0x57#8,
          st := .done }) ∧
    (s.rseq = s.seq → c ≠ ~~~s.rseq → s.params.drainOnReject = false → s.err + 1#8 ≠ s.params.nMaxErr →
      exec i s = .next
        { s with
          rx := rest, rcmp := c, err := s.err + 1#8, tx := s.tx ++ [0x15#8], last := false, rtry := 0x00#8,
          deadline := some .rxNext, expired := false, st := .rxNextWait }) ∧
    (s.rseq = s.seq → c = ~~~s.rseq →
      exec i s = .next { s with rx := rest, rcmp := c, idx := 0#11, st := .rxData })

/-- In RX_DATA any byte is stored at FB[IDX]. The last trailer byte decides the frame: where the trailer read is the
trailer of the payload read, the payload joins DST, SEQ advances, ERR is cleared and ACK goes out; else one error is
counted, and NAK goes out or, at the N_MAXERR-th, CAN CAN with 0x57 (R208, R215, R217, R218). -/
def Obligations.DataByteStoredAndFrameVerified : Prop :=
  ∀ (s : State) (i : Instr) (b : Byte) (rest : List Byte) (tl : Nat) (fb : Memory),
    encode i = .byte b → s.st = .rxData → s.rx = b :: rest → trailerLength s.ckm = some tl →
    fb = s.fb.write s.idx.toNat [b] →
    (s.idx.toNat + 1 < bsz s + tl →
      exec i s = .next { s with rx := rest, fb := fb, idx := s.idx + 1#11 }) ∧
    (s.idx.toNat + 1 = bsz s + tl →
      ckAppend s.params.checksum s.ckm (fb.readN 0 (bsz s)) = some (fb.readN (bsz s) tl) →
      exec i s = .next
        { s with
          rx := rest, fb := fb, idx := s.idx + 1#11, dst := s.dst ++ fb.readN 0 (bsz s), seq := s.seq + 1#8,
          err := 0x00#8, tx := s.tx ++ [0x06#8], last := true, rtry := 0x00#8, deadline := some .rxNext,
          expired := false, st := .rxNextWait }) ∧
    (s.idx.toNat + 1 = bsz s + tl →
      ckAppend s.params.checksum s.ckm (fb.readN 0 (bsz s)) ≠ some (fb.readN (bsz s) tl) →
      s.err + 1#8 = s.params.nMaxErr →
      exec i s = .next
        { s with
          rx := rest, fb := fb, idx := s.idx + 1#11, err := s.err + 1#8, tx := s.tx ++ [0x18#8, 0x18#8],
          result := 0x57#8, st := .done }) ∧
    (s.idx.toNat + 1 = bsz s + tl →
      ckAppend s.params.checksum s.ckm (fb.readN 0 (bsz s)) ≠ some (fb.readN (bsz s) tl) →
      s.err + 1#8 ≠ s.params.nMaxErr →
      exec i s = .next
        { s with
          rx := rest, fb := fb, idx := s.idx + 1#11, err := s.err + 1#8, tx := s.tx ++ [0x15#8], last := false,
          rtry := 0x00#8, deadline := some .rxNext, expired := false, st := .rxNextWait })

/-- In RX_DRAIN any byte only counts; the last one answers with the classification made at the complement byte: ACK
for a duplicate, with SEQ, ERR and DST unchanged, an error for an invalid frame (R209, R216, R217). -/
def Obligations.DrainedFrameIsAnswered : Prop :=
  ∀ (s : State) (i : Instr) (b : Byte) (rest : List Byte) (tl : Nat),
    encode i = .byte b → s.st = .rxDrain → s.rx = b :: rest → trailerLength s.ckm = some tl →
    (s.idx.toNat + 1 < bsz s + tl → exec i s = .next { s with rx := rest, idx := s.idx + 1#11 }) ∧
    (s.idx.toNat + 1 = bsz s + tl → s.pend = .dup →
      exec i s = .next
        { s with
          rx := rest, idx := s.idx + 1#11, tx := s.tx ++ [0x06#8], last := true, rtry := 0x00#8,
          deadline := some .rxNext, expired := false, st := .rxNextWait }) ∧
    (s.idx.toNat + 1 = bsz s + tl → s.pend = .invalid → s.err + 1#8 = s.params.nMaxErr →
      exec i s = .next
        { s with
          rx := rest, idx := s.idx + 1#11, err := s.err + 1#8, tx := s.tx ++ [0x18#8, 0x18#8], result := 0x57#8,
          st := .done }) ∧
    (s.idx.toNat + 1 = bsz s + tl → s.pend = .invalid → s.err + 1#8 ≠ s.params.nMaxErr →
      exec i s = .next
        { s with
          rx := rest, idx := s.idx + 1#11, err := s.err + 1#8, tx := s.tx ++ [0x15#8], last := false,
          rtry := 0x00#8, deadline := some .rxNext, expired := false, st := .rxNextWait })

/-- An expiry inside a frame counts one error, but for a duplicate being drained, which is still ACKed (R210, R211,
R217, R216). -/
def Obligations.FrameExpiryIsAnswered : Prop :=
  ∀ s : State, s.reservedField = none → s.rx = [] → s.expired = true → s.sched.next = .engine →
    (s.st = .rxSeq ∨ s.st = .rxCmpl ∨ s.st = .rxData ∨ (s.st = .rxDrain ∧ s.pend = .invalid) →
      (s.err + 1#8 = s.params.nMaxErr →
        step s = .next
          { s with
            sched := s.sched.rest, err := s.err + 1#8, tx := s.tx ++ [0x18#8, 0x18#8], result := 0x57#8, st := .done }) ∧
      (s.err + 1#8 ≠ s.params.nMaxErr →
        step s = .next
          { s with
            sched := s.sched.rest, err := s.err + 1#8, tx := s.tx ++ [0x15#8], last := false, rtry := 0x00#8,
            deadline := some .rxNext,
            expired := false, st := .rxNextWait })) ∧
    (s.st = .rxDrain → s.pend = .dup →
      step s = .next
        { s with
          sched := s.sched.rest, tx := s.tx ++ [0x06#8], last := true, rtry := 0x00#8, deadline := some .rxNext,
          expired := false,
          st := .rxNextWait })

/-- An expiry of the receiver's handshake repeats the request byte; the N_RX_HS-th emits CAN CAN instead and ends the
session with 0x55 (R143). -/
def Obligations.ReceiverHandshakeExpiry : Prop :=
  ∀ s : State, s.reservedField = none → s.st = .rxHsWait → s.rx = [] → s.expired = true →
    s.sched.next = .engine →
    (s.rtry + 1#8 = s.params.nRxHs →
      step s = .next
        { s with
          sched := s.sched.rest, rtry := s.rtry + 1#8, tx := s.tx ++ [0x18#8, 0x18#8], result := 0x55#8, st := .done }) ∧
    (s.rtry + 1#8 ≠ s.params.nRxHs →
      step s = .next
        { s with
          sched := s.sched.rest, rtry := s.rtry + 1#8, tx := s.tx ++ [if s.ckm = .crc16 then 0x43#8 else 0x15#8],
          deadline := some .rxHs, expired := false })

/-- An expiry of the next-block wait repeats the last response, ACK or NAK by LAST; the N_RX_NEXT-th emits CAN CAN
instead and ends the session with 0x58; ERR is not touched (R222). -/
def Obligations.NextBlockExpiryRepeatsResponse : Prop :=
  ∀ s : State, s.reservedField = none → s.st = .rxNextWait → s.rx = [] → s.expired = true →
    s.sched.next = .engine →
    (s.rtry + 1#8 = s.params.nRxNext →
      step s = .next
        { s with
          sched := s.sched.rest, rtry := s.rtry + 1#8, tx := s.tx ++ [0x18#8, 0x18#8], result := 0x58#8, st := .done }) ∧
    (s.rtry + 1#8 ≠ s.params.nRxNext →
      step s = .next
        { s with
          sched := s.sched.rest, rtry := s.rtry + 1#8, tx := s.tx ++ [if s.last then 0x06#8 else 0x15#8],
          deadline := some .rxNext,
          expired := false })

/-! ## Frame of the frame buffer -/

/-- Which bytes of FB an instruction can change: in RX_DATA the byte at IDX; in the sender's two states that fetch a
chunk the payload bytes 0 to BSZ - 1; anywhere else, and for every host command, none (R47, R74). -/
def Obligations.FrameBufferChangesOnlyWhereStored : Prop :=
  ∀ (i : Instr) (s t : State), exec i s = .next t →
    (s.st = .rxData → ∀ a, a ≠ s.idx.toNat → t.fb.read a = s.fb.read a) ∧
    (s.st = .txHsWait ∨ s.st = .txBlkWait → ∀ a, bsz s ≤ a → t.fb.read a = s.fb.read a) ∧
    (s.st ≠ .rxData → s.st ≠ .txHsWait → s.st ≠ .txBlkWait → t.fb = s.fb) ∧
    (i.port = .command → t.fb = s.fb)

/-! ## Reset -/

/-- Hardware reset puts every register at its reset value and does not touch RX, TX, SRC or DST, from any state, BUSY
or not (R340). The frame buffer's contents after it are left open, as the rule leaves them. That the timer's deadline
and expired indication stay as they are is the model's reading (entry 20). -/
def Obligations.HardwareResetValues : Prop :=
  ∀ s : State, s.sched.next = .reset →
    ∃ fb : Memory, step s = .next
      { s with
        st := .idle, role := .sender, blk1k := false, ckm := .none, seq := 0x01#8, err := 0x00#8, rtry := 0x00#8,
        last := false, idx := 0#11, rseq := 0x00#8, rcmp := 0x00#8, pend := .none, cxl := false, result := 0x00#8,
        sptr := 0, fb := fb, sched := s.sched.rest }

/-- The state after reset meets the invariant and the frame law. -/
def Obligations.ResetStateIsGood : Prop :=
  Inv State.reset ∧ FrameLaw State.reset

/-! ## Outcomes -/

/-- RESULT is KIND over CAUSE with bit 7 clear, its value for every outcome is the one the table of R302 prints, no
outcome has a reserved code, and exactly 0x11, 0x12 and 0x13 are successes (R301, R302, R286). -/
def Obligations.ResultCodes : Prop :=
  (∀ c : Cause, resultKind c.result = c.kind.code ∧ resultCause c.result = c.code ∧ c.result.getLsbD 7 = false ∧
    resultReserved c.result = false ∧ (resultIsOk c.result = true ↔ c.kind = .ok)) ∧
  Cause.result .none = 0x00#8 ∧ Cause.result .txOkAcked = 0x11#8 ∧ Cause.result .txOkUnacked = 0x12#8 ∧
  Cause.result .rxOk = 0x13#8 ∧ Cause.result .txHsTimeout = 0x24#8 ∧ Cause.result .rxHsTimeout = 0x55#8 ∧
  Cause.result .txTooManyErrors = 0x56#8 ∧ Cause.result .rxTooManyErrors = 0x57#8 ∧
  Cause.result .rxNoData = 0x58#8 ∧ Cause.result .rxSyncLost = 0x39#8 ∧ Cause.result .txPeerCanBlock = 0x4A#8 ∧
  Cause.result .txPeerCanEot = 0x4B#8 ∧ Cause.result .localCancel = 0x6C#8

/-! ## Whole machine -/

/-- Every step of every agent keeps the invariant, from every state that has it. -/
def Obligations.EveryStepKeepsInvariant : Prop :=
  ∀ s t : State, Inv s → step s = .next t → Inv t

/-- From a state with the invariant the machine never faults: no reserved encoding, no access outside a space, no
frame without a checksum mode (R71, inference; R49, R39). The one stop is the refusal U12 asks for, and only at a
SEND taken outside a session with a source that does not fit the source pointer (entry 6). -/
def Obligations.NoFaultFromGoodState : Prop :=
  ∀ s : State, Inv s → goesOn s

/-- The sender's frame law: the k-th chunk is always sent with sequence byte k mod 256 and from the same payload,
whatever the peer, the timer and the host do (R173, inference). -/
def Obligations.EveryStepKeepsFrameLaw : Prop :=
  ∀ s t : State, Inv s → FrameLaw s → step s = .next t → FrameLaw t

/-- A session ends only with an outcome its state can raise, and RESULT is that outcome's code (R303, inference;
R305). -/
def Obligations.SessionEndsByStateOutcomes : Prop :=
  ∀ s t : State, Inv s → step s = .next t → s.busy = true → t.st = .done →
    ∃ c ∈ outcomesOf s.st, t.result = c.result

/-- RESULT is written only by the step that enters DONE, by a session start and by hardware reset; the last two clear
it, always (R44, R305, R340). -/
def Obligations.ResultChangesOnlyAtEndStartReset : Prop :=
  ∀ s t : State, step s = .next t →
    (startsOrResets s t → t.result = 0x00#8) ∧
    (t.result ≠ s.result →
      (s.busy = true ∧ t.st = .done) ∨ (s.sched.next = .reset ∧ t.st = .idle) ∨
      (s.busy = false ∧ (t.st = .txHsWait ∨ t.st = .rxHsWait)))

/-- Only an accepted SEND or RECEIVE, or hardware reset, leaves DONE (R308, inference; R340). -/
def Obligations.OnlySessionStartOrResetLeavesDone : Prop :=
  ∀ s t : State, step s = .next t → s.st = .done → t.st ≠ .done →
    (∃ w opt, s.sched.next = .host w ∧
      (decodeCommand w = .send opt ∧ t.st = .txHsWait ∨ decodeCommand w = .receive opt ∧ t.st = .rxHsWait)) ∨
    (s.sched.next = .reset ∧ t.st = .idle)

/-- SEQ advances by one modulo 256 on an ACK of a data block (sender) and on an accepted block (receiver), is 0x01
after a session start or reset, and keeps its value in every other step (R34, R340). -/
def Obligations.SequenceAdvancesOnlyOnSuccess : Prop :=
  ∀ s t : State, step s = .next t →
    (blockSucceeds s t → t.seq = s.seq + 1#8) ∧
    (startsOrResets s t → t.seq = 0x01#8) ∧
    (¬ blockSucceeds s t → ¬ startsOrResets s t → t.seq = s.seq)

/-- The block emits only whole frames and EOT (sender), ACK, NAK and the request byte (receiver), and CAN CAN in a
step that ends the session; TX only grows (R261, inference; R257, R76). -/
def Obligations.OnlyTheseBytesAreEmitted : Prop :=
  ∀ s t : State, Inv s → step s = .next t →
    ∃ e : List Byte, t.tx = s.tx ++ e ∧
      (e = [] ∨
        (e = [0x18#8, 0x18#8] ∧ s.busy = true ∧ t.st = .done) ∨
        (t.role = .sender ∧ e = [0x04#8]) ∨
        (t.role = .sender ∧ ∃ p tr, p.length = bsz t ∧ ckAppend t.params.checksum t.ckm p = some tr ∧
          e = frameBytes t.blk1k t.seq p tr) ∨
        (t.role = .receiver ∧ (e = [0x06#8] ∨ e = [0x15#8] ∨ e = [0x43#8])))

/-- DST changes only by an accepted frame, which appends exactly the BSZ payload bytes of that frame, in the step that
emits its ACK and advances SEQ, and by the start of a RECEIVE, which empties it by the model's choice (entry
9) (R73, R215; R84, inference). -/
def Obligations.DestinationOnlyGainsAcceptedPayloads : Prop :=
  ∀ s t : State, step s = .next t →
    t.dst = s.dst ∨ (t.dst = [] ∧ s.busy = false ∧ t.st = .rxHsWait) ∨
    (s.st = .rxData ∧ ∃ p : List Byte, p.length = bsz s ∧ t.dst = s.dst ++ p ∧ p = t.fb.readN 0 (bsz s) ∧
      ckAppend s.params.checksum s.ckm p = some (t.fb.readN (bsz s) (t.idx.toNat - bsz s)) ∧
      t.tx = s.tx ++ [0x06#8] ∧ t.seq = s.seq + 1#8)

/-- While a session runs, the sender's block size never changes, and the checksum mode changes only once, from NONE
when the sender's handshake ends (R38, R39; R51, inference). -/
def Obligations.FormatIsFixedForTheSession : Prop :=
  ∀ s t : State, Inv s → step s = .next t → s.busy = true → s.sched.next ≠ .reset →
    t.role = s.role ∧ (s.role = .sender → t.blk1k = s.blk1k) ∧
    (t.ckm = s.ckm ∨ (s.st = .txHsWait ∧ s.ckm = .none ∧ (t.ckm = .sum8 ∨ t.ckm = .crc16)))

/-- CXL is set only by a CANCEL while BUSY and cleared by a session start or reset, always, and by nothing else; once
set it stays while the session runs (R45, R340). -/
def Obligations.CancellationLatchHolds : Prop :=
  ∀ s t : State, step s = .next t →
    (s.cxl = false → t.cxl = true → s.busy = true ∧
      ∃ w opt, s.sched.next = .host w ∧ decodeCommand w = .cancel opt) ∧
    (startsOrResets s t → t.cxl = false) ∧
    (s.cxl = true → t.cxl = false → startsOrResets s t)

/-- An expiry is never served twice: the poll that serves it ends the session or leaves a fresh deadline, that of the
state it leaves (R260, R322, inferences). -/
def Obligations.ExpiryIsServedOnce : Prop :=
  ∀ s t : State, Inv s → s.busy = true → s.rx = [] → s.expired = true → engineTurn s = .next t →
    t.rx = [] ∧ (t.st = .done ∨ (t.busy = true ∧ t.expired = false ∧ t.deadline = waitDeadline t.st))

/-- RX is a FIFO: a step takes at most the oldest byte, or adds one at the end; every poll of a wait state that finds
a byte takes exactly that one (R75; R260, inference). -/
def Obligations.InputIsConsumedInOrder : Prop :=
  ∀ s t : State, step s = .next t →
    (t.rx = s.rx ∨ (∃ b, s.rx = b :: t.rx) ∨ ∃ b, s.sched.next = .peer b ∧ t.rx = s.rx ++ [b]) ∧
    (s.sched.next = .engine → s.busy = true → s.rx ≠ [] → ∃ b, s.rx = b :: t.rx)

/-- The parameters and the session's source are not changed by any step but the SEND that fixes the source, and the
SRC port only by the host (R9, R72). -/
def Obligations.ParametersAndSourceAreFixed : Prop :=
  ∀ s t : State, step s = .next t →
    t.params = s.params ∧
    (t.src ≠ s.src → s.busy = false ∧ t.st = .txHsWait ∧ t.src = s.srcPort) ∧
    (t.srcPort ≠ s.srcPort → ∃ bs, s.sched.next = .bindSrc bs ∧ t.srcPort = bs)

/-- The readback gives every register of R31 under its number, whole through STAT_DATA's max(11, W_SRC) bits, and 0 at
index 15 (R31, R52, R284). The codes of ST, ROLE, CKM and PEND it shows are those the tables print, the reserved ones
too (R32, R31, R39, R43), and so are the selectors of the six deadlines (R108). -/
def Obligations.StatusReadbackIsExact : Prop :=
  (∀ s : State, Inv s →
    (∀ idx : BitVec 4, (s.statData idx).toNat = s.readback idx) ∧
    s.readback 0#4 = s.st.code.toNat ∧ s.readback 1#4 = s.role.code.toNat ∧ s.readback 2#4 = s.blk1k.toNat ∧
    s.readback 3#4 = s.ckm.code.toNat ∧ s.readback 4#4 = s.seq.toNat ∧ s.readback 5#4 = s.err.toNat ∧
    s.readback 6#4 = s.rtry.toNat ∧ s.readback 7#4 = s.last.toNat ∧ s.readback 8#4 = s.idx.toNat ∧
    s.readback 9#4 = s.rseq.toNat ∧ s.readback 10#4 = s.rcmp.toNat ∧ s.readback 11#4 = s.pend.code.toNat ∧
    s.readback 12#4 = s.cxl.toNat ∧ s.readback 13#4 = s.result.toNat ∧ s.readback 14#4 = s.sptr ∧
    s.readback 15#4 = 0) ∧
  (FsmState.code .idle = 0x0#4 ∧ FsmState.code .txHsWait = 0x1#4 ∧ FsmState.code .txBlkWait = 0x2#4 ∧
    FsmState.code .txEotWait = 0x3#4 ∧ FsmState.code .rxHsWait = 0x4#4 ∧ FsmState.code .rxSeq = 0x5#4 ∧
    FsmState.code .rxCmpl = 0x6#4 ∧ FsmState.code .rxData = 0x7#4 ∧ FsmState.code .rxDrain = 0x8#4 ∧
    FsmState.code .rxNextWait = 0x9#4 ∧ FsmState.code (.reserved 0) = 0xA#4 ∧ FsmState.code (.reserved 1) = 0xB#4 ∧
    FsmState.code (.reserved 2) = 0xC#4 ∧ FsmState.code (.reserved 3) = 0xD#4 ∧
    FsmState.code (.reserved 4) = 0xE#4 ∧ FsmState.code .done = 0xF#4) ∧
  (Role.code .sender = 0#1 ∧ Role.code .receiver = 1#1) ∧
  (ChecksumMode.code .none = 0b00#2 ∧ ChecksumMode.code .sum8 = 0b01#2 ∧ ChecksumMode.code .crc16 = 0b10#2 ∧
    ChecksumMode.code .reserved = 0b11#2) ∧
  (Pending.code .none = 0b00#2 ∧ Pending.code .dup = 0b01#2 ∧ Pending.code .invalid = 0b10#2 ∧
    Pending.code .reserved = 0b11#2) ∧
  (timerSelCode .txHs = 0#3 ∧ timerSelCode .rxHs = 1#3 ∧ timerSelCode .txResp = 2#3 ∧ timerSelCode .rxBlk = 3#3 ∧
    timerSelCode .rxNext = 4#3 ∧ timerSelCode .txEot = 5#3)

/-- No step depends on what FB, RSEQ and RCMP hold from before: two states that differ only there stay so, and every
step of one is a step of the other (R42, R47, where the spec infers it; 93_implementation_defined.md U10, U11). The
host's readback does show RSEQ and RCMP (R52). -/
def Obligations.NoStepDependsOnLeftovers : Prop :=
  ∀ s s' t : State, SameButLeftovers s s' → step s = .next t →
    ∃ t', step s' = .next t' ∧ SameButLeftovers t t'

/-- After an accepted SEND or RECEIVE no step depends on a register from before: the new states of two blocks that
agree on the parameters, the channel, the ports and the schedule differ at most in the leftovers FB, RSEQ and RCMP,
which R280 leaves in place and no step depends on (R287, inference). For RECEIVE they need not agree on DST because the model
empties it (entry 9). -/
def Obligations.SessionStartForgetsRegisters : Prop :=
  ∀ (s s' t : State) (opt : Bool), s.busy = false → s'.busy = false →
    s'.params = s.params → s'.rx = s.rx → s'.tx = s.tx → s'.srcPort = s.srcPort → s'.sched = s.sched →
    (s'.dst = s.dst → exec (.send opt) s = .next t → ∃ t', exec (.send opt) s' = .next t' ∧ SameButLeftovers t t') ∧
    (s'.src = s.src → exec (.receive opt) s = .next t →
      ∃ t', exec (.receive opt) s' = .next t' ∧ SameButLeftovers t t')

/-! ## Runs -/

/-- A whole good frame with the current sequence number, whatever its size, waiting in RX, is accepted in one poll per
byte: its payload joins DST once, SEQ advances, and exactly one ACK goes out, even with an expiry or a cancellation
pending. With the trailer the sender computes, this is what the sender emits (R204 to R208, R215; R213,
inference). -/
def Obligations.GoodFrameIsAccepted : Prop :=
  ∀ (s : State) (blk1k : Bool) (p tr rest : List Byte) (n : Nat),
    s.reservedField = none → s.st = .rxHsWait ∨ s.st = .rxNextWait →
    p.length = blockSize blk1k → ckAppend s.params.checksum s.ckm p = some tr →
    s.rx = frameBytes blk1k s.seq p tr ++ rest →
    n = 3 + p.length + tr.length → s.sched.ahead n = List.replicate n .engine →
    ∃ fb : Memory,
      Host.Core.run core n s = .next
        { s with
          sched := s.sched.drop n, rx := rest, blk1k := blk1k, rseq := s.seq, rcmp := ~~~s.seq,
          idx := BitVec.ofNat 11 (p.length + tr.length), fb := fb, dst := s.dst ++ p, seq := s.seq + 1#8,
          err := 0x00#8, tx := s.tx ++ [0x06#8], last := true, rtry := 0x00#8, deadline := some .rxNext,
          expired := false, st := .rxNextWait } ∧
      fb.readN 0 (p.length + tr.length) = p ++ tr ∧
      ∀ a, p.length + tr.length ≤ a → fb.read a = s.fb.read a

/-- A retransmitted frame of the block just accepted is read whole and ACKed, and leaves DST, SEQ, ERR and FB as they
were, whatever its complement, payload and trailer (R206, R209, R216; R224, inference). -/
def Obligations.DuplicateFrameIsAckedAndDropped : Prop :=
  ∀ (s : State) (blk1k : Bool) (c : Byte) (bs rest : List Byte) (tl n : Nat),
    s.reservedField = none → s.st = .rxHsWait ∨ s.st = .rxNextWait →
    s.params.drainOnReject = true → trailerLength s.ckm = some tl → bs.length = blockSize blk1k + tl →
    s.rx = header blk1k :: (s.seq + 255#8) :: c :: (bs ++ rest) →
    n = 3 + bs.length → s.sched.ahead n = List.replicate n .engine →
    Host.Core.run core n s = .next
      { s with
        sched := s.sched.drop n, rx := rest, blk1k := blk1k, rseq := s.seq + 255#8, rcmp := c, pend := .dup,
        idx := BitVec.ofNat 11 bs.length, tx := s.tx ++ [0x06#8], last := true, rtry := 0x00#8,
        deadline := some .rxNext, expired := false, st := .rxNextWait }

/-- A receiver whose peer stays silent emits its request byte exactly N_RX_HS times, then CAN CAN, and ends with 0x55
at its N_RX_HS-th expiry, for every value of the bound (R143; R145, inference). -/
def Obligations.SilentTransmitterEndsReceive : Prop :=
  ∀ (s : State) (opt : Bool) (n : Nat), s.reservedField = none → s.busy = false → s.rx = [] →
    s.params.nRxHs = BitVec.ofNat 8 n → 1 ≤ n → n ≤ 255 →
    s.sched.ahead (1 + 2 * n) =
      .host (cmdWord opt 0b10#2) :: (List.replicate n [Turn.timer, Turn.engine]).flatten →
    ∃ t : State, Host.Core.run core (1 + 2 * n) s = .next t ∧ t.st = .done ∧ t.result = 0x55#8 ∧
      t.rtry = s.params.nRxHs ∧
      t.tx = s.tx ++ List.replicate n (if opt then 0x43#8 else 0x15#8) ++ [0x18#8, 0x18#8]

/-- A sender whose source is at its end and whose peer answers no EOT emits EOT exactly N_TX_EOT times in all and
nothing else, and ends with success 0x12 at the N_TX_EOT-th expiry, for every value of the bound: after the ACK of the
last block, and, with an empty source, after the request byte (R171, R183). -/
def Obligations.UnansweredEotEndsSend : Prop :=
  ∀ (s : State) (b : Byte) (n : Nat), s.reservedField = none → s.rx = [] → s.sptr = s.src.length →
    (s.st = .txBlkWait ∧ b = 0x06#8) ∨ (s.st = .txHsWait ∧ (b = 0x15#8 ∨ b = 0x43#8)) →
    s.params.nTxEot = BitVec.ofNat 8 n → 1 ≤ n → n ≤ 255 →
    s.sched.ahead (2 + 2 * n) =
      [Turn.peer b, Turn.engine] ++ (List.replicate n [Turn.timer, Turn.engine]).flatten →
    ∃ t : State, Host.Core.run core (2 + 2 * n) s = .next t ∧ t.st = .done ∧ t.result = 0x12#8 ∧
      t.rtry = s.params.nTxEot ∧ t.tx = s.tx ++ List.replicate n 0x04#8

/-- A receiver whose peer falls silent after a response emits that response N_RX_NEXT - 1 times more, then CAN CAN, and
ends with 0x58 at the N_RX_NEXT-th expiry, with ERR, SEQ and DST as they were, for every value of the bound (R222). -/
def Obligations.SilenceAfterBlockEndsReceive : Prop :=
  ∀ (s : State) (n : Nat), s.reservedField = none → s.st = .rxNextWait → s.rx = [] → s.rtry = 0x00#8 →
    s.deadline = some .rxNext → s.params.nRxNext = BitVec.ofNat 8 n → 1 ≤ n → n ≤ 255 →
    s.sched.ahead (2 * n) = (List.replicate n [Turn.timer, Turn.engine]).flatten →
    ∃ t : State, Host.Core.run core (2 * n) s = .next t ∧ t.st = .done ∧ t.result = 0x58#8 ∧
      t.rtry = s.params.nRxNext ∧ t.err = s.err ∧ t.seq = s.seq ∧ t.dst = s.dst ∧
      t.tx = s.tx ++ List.replicate (n - 1) (if s.last then 0x06#8 else 0x15#8) ++ [0x18#8, 0x18#8]

/-- A frame answered N_MAXERR times in a row by NAK or by expiry, in any mix, goes out N_MAXERR - 1 times more, always
the same bytes, then CAN CAN, and the session ends with 0x56, for every value of the bound (R177; R188,
inference). -/
def Obligations.SenderRetryBound : Prop :=
  ∀ (s : State) (answers : List Bool) (tr : List Byte), s.reservedField = none → s.st = .txBlkWait →
    s.err = 0x00#8 → s.rx = [] → s.expired = false → s.deadline = some .txResp →
    s.params.nMaxErr = BitVec.ofNat 8 answers.length → 1 ≤ answers.length → answers.length ≤ 255 →
    ckAppend s.params.checksum s.ckm (s.fb.readN 0 (bsz s)) = some tr →
    s.sched.ahead (2 * answers.length) =
      (answers.map (fun nak => [if nak then Turn.peer 0x15#8 else Turn.timer, Turn.engine])).flatten →
    ∃ t : State, Host.Core.run core (2 * answers.length) s = .next t ∧ t.st = .done ∧ t.result = 0x56#8 ∧
      t.err = s.params.nMaxErr ∧
      t.tx = s.tx ++
        (List.replicate (answers.length - 1) (frameBytes s.blk1k s.seq (s.fb.readN 0 (bsz s)) tr)).flatten ++
        [0x18#8, 0x18#8]

/-- A receiver that meets one failed frame after another, with no ACCEPT between them, answers each by NAK until the
N_MAXERR-th since the last accepted block, which it answers by CAN CAN and RESULT 0x57. A failed frame is of either
size: cut off by the deadline anywhere, of a wrong complement, or of a wrong trailer. Duplicates may come in between:
each is ACKed and does not reset the count. DST and SEQ stay as they were (R206, R208 to R211, R216, R217; R226,
inference). A frame rejected at its complement is drained, or not, as DRAIN_ON_REJECT says. -/
def Obligations.ReceiverRetryBound : Prop :=
  ∀ (s : State) (tl : Nat) (frames : List (Bool × Attempt)) (final : Attempt) (ts : List Turn),
    s.reservedField = none → s.st = .rxHsWait ∨ s.st = .rxNextWait → s.rx = [] → trailerLength s.ckm = some tl →
    (∀ x ∈ frames, if x.1 then x.2.failed tl s else x.2.duplicate tl s) → final.failed tl s →
    s.err.toNat + (frames.filter (·.1)).length + 1 = s.params.nMaxErr.toNat →
    ts = (frames.map (·.2.turns)).flatten ++ final.turns → s.sched.ahead ts.length = ts →
    ∃ t : State, Host.Core.run core ts.length s = .next t ∧ t.st = .done ∧ t.result = 0x57#8 ∧
      t.err = s.params.nMaxErr ∧ t.dst = s.dst ∧ t.seq = s.seq ∧
      t.tx = s.tx ++ frames.map (fun x => if x.1 then 0x15#8 else 0x06#8) ++ [0x18#8, 0x18#8]

/-- Over an ideal channel a SEND of any source emits one frame for each chunk, the k-th with sequence byte k modulo 256
and the last padded, then one EOT, and succeeds with 0x11, for either block size and either checksum mode; an empty
source goes straight to EOT (R171 to R175, R182; R187, inference, for a peer that answers each emission before
the next poll). -/
def Obligations.IdealChannelSendSucceeds : Prop :=
  ∀ (s : State) (opt crc : Bool) (k : Nat), s.reservedField = none → s.busy = false → s.rx = [] →
    s.srcPort.length < 2 ^ s.params.wSrc →
    k = (s.srcPort.length + blockSize opt - 1) / blockSize opt →
    s.sched.ahead (2 * k + 5) =
      [Turn.host (cmdWord opt 0b01#2), Turn.peer (if crc then 0x43#8 else 0x15#8), Turn.engine] ++
        (List.replicate (k + 1) [Turn.peer 0x06#8, Turn.engine]).flatten →
    ∃ t : State, Host.Core.run core (2 * k + 5) s = .next t ∧ t.st = .done ∧ t.result = 0x11#8 ∧ t.rx = [] ∧
      t.sptr = s.srcPort.length ∧
      t.tx = s.tx ++
        ((List.range k).map (fun i =>
          let p := padded (blockSize opt) ((s.srcPort.drop (i * blockSize opt)).take (blockSize opt))
          frameBytes opt (BitVec.ofNat 8 (i + 1)) p
            ((ckAppend s.params.checksum (if crc then .crc16 else .sum8) p).getD []))).flatten ++ [0x04#8]

/-- Every session ends in DONE, from every state with the invariant, whatever the peer has sent, when no reset comes,
the peer sends finitely many bytes more, and the deadline elapses and the engine polls again and again for ever (R309
and R323's fairness, inference). Host commands and other SRC bindings may come at any time. -/
def Obligations.EverySessionEnds : Prop :=
  ∀ s : State, Inv s → s.busy = true →
    (∀ n, s.sched.turn n ≠ .reset) → (∃ m, ∀ n b, m ≤ n → s.sched.turn n ≠ .peer b) →
    (∀ m, ∃ n, m ≤ n ∧ s.sched.turn n = .timer) → (∀ m, ∃ n, m ≤ n ∧ s.sched.turn n = .engine) →
    ∃ (n : Nat) (t : State), Host.Core.run core n s = .next t ∧ t.st = .done

/-- A peer that never lets RX run empty at a poll keeps a session from ending: with an endless stream of bytes of the
class OTHER, CPMEOF among them, at every instant at least as many as the polls so far, every wait state outside a frame stays as it is for
ever, emits nothing and writes no RESULT, however often the deadline elapses and the host cancels (R309's last sentence
and R355, inferences). -/
def Obligations.EndlessBytesStarveSession : Prop :=
  ∀ s : State, s.reservedField = none →
    s.st = .txHsWait ∨ s.st = .txBlkWait ∨ s.st = .txEotWait ∨ s.st = .rxHsWait ∨ s.st = .rxNextWait →
    (∀ b ∈ s.rx, classOther b) →
    (∀ n, s.sched.turn n ≠ .reset ∧ ∀ b, s.sched.turn n = .peer b → classOther b) →
    (∀ n, polls (s.sched.ahead n) ≤ s.rx.length + arrivals (s.sched.ahead n)) →
    ∀ n, ∃ t : State, Host.Core.run core n s = .next t ∧ t.st = s.st ∧ t.result = s.result ∧ t.tx = s.tx
end

