-- ==== Sys2Proof/Laws/Memory.lean ====
section
/-!
SUPPORT. The laws of the frame buffer: reading after writing, reading a run of bytes back, and the canonical form,
which every operation keeps and the reset memory has.
-/

namespace Sys2Proof.Laws

open Sys2Proof Sys2Proof.Machine Sys2Proof.Config

/-! Reading one byte. -/

theorem read_append_of_not_mem (m m' : Memory) (x : Nat) (h : ∀ c ∈ m, c.1 ≠ x) :
    Memory.read (m ++ m') x = Memory.read m' x := by
  induction m with
  | nil => rfl
  | cons c m ih =>
    obtain ⟨k, v⟩ := c
    have hk : k ≠ x := h (k, v) (by simp)
    simp only [List.cons_append, Memory.read, if_neg hk]
    exact ih (fun c hc => h c (by simp [hc]))

theorem read_of_not_mem (m : Memory) (x : Nat) (h : ∀ c ∈ m, c.1 ≠ x) : Memory.read m x = 0x00#8 := by
  have := read_append_of_not_mem m [] x h
  simpa [Memory.read] using this

theorem read_filter (m : Memory) (x : Nat) (p : Host.Cell → Bool) (h : ∀ v, p (x, v) = true) :
    Memory.read (m.filter p) x = Memory.read m x := by
  induction m with
  | nil => rfl
  | cons c m ih =>
    obtain ⟨k, v⟩ := c
    by_cases hk : k = x
    · subst hk; simp [h v, Memory.read]
    · by_cases hp : p (k, v) = true
      · simp [hp, Memory.read, hk, ih]
      · simp [hp, Memory.read, hk, ih]

theorem read_append_filter (m m' : Memory) (x : Nat) (p : Host.Cell → Bool) (h : ∀ v, p (x, v) = true)
    (hm' : ∀ c ∈ m', c.1 ≠ x) : Memory.read (m.filter p ++ m') x = Memory.read m x := by
  induction m with
  | nil => simpa [Memory.read] using read_of_not_mem m' x hm'
  | cons c m ih =>
    obtain ⟨k, v⟩ := c
    by_cases hk : k = x
    · subst hk; simp [h v, Memory.read]
    · by_cases hp : p (k, v) = true
      · simp [hp, Memory.read, hk, ih]
      · simp [hp, Memory.read, hk, ih]

theorem mem_cells (a : Nat) (bs : List Byte) (c : Host.Cell) (h : c ∈ Memory.cells a bs) :
    a ≤ c.1 ∧ c.1 < a + bs.length ∧ c.2 ≠ 0x00#8 := by
  induction bs generalizing a with
  | nil => simp [Memory.cells] at h
  | cons b bs ih =>
    simp only [Memory.cells] at h
    split at h
    · obtain ⟨h1, h2, h3⟩ := ih (a + 1) h
      exact ⟨by omega, by simp only [List.length_cons]; omega, h3⟩
    · rename_i hb
      rcases List.mem_cons.mp h with rfl | h
      · exact ⟨by simp, by simp, hb⟩
      · obtain ⟨h1, h2, h3⟩ := ih (a + 1) h
        exact ⟨by omega, by simp only [List.length_cons]; omega, h3⟩

theorem read_cells_append (a : Nat) (bs : List Byte) (m : Memory) (x : Nat) (h1 : a ≤ x) (h2 : x < a + bs.length)
    (hm : ∀ c ∈ m, c.1 ≠ x) : Memory.read (Memory.cells a bs ++ m) x = bs.getD (x - a) 0x00#8 := by
  induction bs generalizing a with
  | nil => simp at h2; omega
  | cons b bs ih =>
    rcases Nat.eq_or_lt_of_le h1 with rfl | hlt
    · by_cases hb : b = 0x00#8
      · have : ∀ c ∈ Memory.cells (a + 1) bs ++ m, c.1 ≠ a := by
          intro c hc
          rcases List.mem_append.mp hc with hc | hc
          · have := (mem_cells (a + 1) bs c hc).1
            omega
          · exact hm c hc
        simp [Memory.cells, hb, read_of_not_mem _ _ this]
      · simp [Memory.cells, hb, Memory.read]
    · have hx : x < a + 1 + bs.length := by simp only [List.length_cons] at h2; omega
      have hd : x - a = (x - (a + 1)) + 1 := by omega
      have := ih (a + 1) (by omega) hx
      by_cases hb : b = 0x00#8
      · simp [Memory.cells, hb, this, hd]
      · simp [Memory.cells, hb, Memory.read, Nat.ne_of_lt hlt, this, hd]

/-- The read of any byte after a write of a run of bytes (R74). -/
theorem read_write (m : Memory) (a : Nat) (bs : List Byte) (x : Nat) :
    (m.write a bs).read x = if a ≤ x ∧ x < a + bs.length then bs.getD (x - a) 0x00#8 else m.read x := by
  unfold Memory.write
  by_cases hlo : x < a
  · rw [if_neg (by omega), List.append_assoc]
    refine read_append_filter m _ x _ (by simp [hlo]) ?_
    intro c hc
    rcases List.mem_append.mp hc with hc | hc
    · have := (mem_cells a bs c hc).1
      omega
    · have : a + bs.length ≤ c.1 := by simpa using (List.mem_filter.mp hc).2
      omega
  · have h1 : ∀ c ∈ m.filter (fun c => c.1 < a), c.1 ≠ x := by
      intro c hc
      have : c.1 < a := by simpa using (List.mem_filter.mp hc).2
      omega
    rw [List.append_assoc, read_append_of_not_mem _ _ _ h1]
    by_cases hhi : x < a + bs.length
    · rw [if_pos ⟨by omega, hhi⟩]
      refine read_cells_append a bs _ x (by omega) hhi ?_
      intro c hc
      have : a + bs.length ≤ c.1 := by simpa using (List.mem_filter.mp hc).2
      omega
    · rw [if_neg (by omega), read_append_of_not_mem]
      · exact read_filter m x _ (by intro v; simpa using Nat.le_of_not_lt hhi)
      · intro c hc
        have := (mem_cells a bs c hc).2.1
        omega

/-- A byte outside the written run reads as before. -/
theorem read_write_outside (m : Memory) (a : Nat) (bs : List Byte) (x : Nat) (h : x < a ∨ a + bs.length ≤ x) :
    (m.write a bs).read x = m.read x := by
  rw [read_write, if_neg (by omega)]

/-! Reading a run of bytes. -/

@[simp] theorem readN_length (m : Memory) (a n : Nat) : (m.readN a n).length = n := by simp [Memory.readN]

theorem readN_getD (m : Memory) (a n i : Nat) (h : i < n) : (m.readN a n).getD i 0x00#8 = m.read (a + i) := by
  simp [Memory.readN, h]

/-- Two memories that agree on a run of addresses read the same run. -/
theorem readN_congr (m m' : Memory) (a n : Nat) (h : ∀ i < n, m.read (a + i) = m'.read (a + i)) :
    m.readN a n = m'.readN a n := by
  unfold Memory.readN
  exact List.map_congr_left (fun i hi => h i (List.mem_range.mp hi))

/-- The bytes just written read back. -/
theorem readN_write_self (m : Memory) (a : Nat) (bs : List Byte) : (m.write a bs).readN a bs.length = bs := by
  apply List.ext_getElem (by simp)
  intro i h1 h2
  have hi : i < bs.length := h2
  simp [Memory.readN, read_write, hi]

/-! The canonical form. -/

theorem cells_pairwise (a : Nat) (bs : List Byte) : (Memory.cells a bs).Pairwise (fun x y => x.1 < y.1) := by
  induction bs generalizing a with
  | nil => exact List.Pairwise.nil
  | cons b bs ih =>
    simp only [Memory.cells]
    split
    · exact ih (a + 1)
    · exact List.Pairwise.cons (fun c hc => by have := (mem_cells (a + 1) bs c hc).1; simp only; omega) (ih (a + 1))

/-- A write inside FB keeps the canonical form. -/
theorem write_wf (m : Memory) (a : Nat) (bs : List Byte) (h : m.wf) (hin : a + bs.length ≤ fbSize) :
    (m.write a bs).wf := by
  obtain ⟨hp, hc⟩ := h
  have hlo : ∀ c ∈ m.filter (fun c => c.1 < a), c.1 < a := fun c hc => by simpa using (List.mem_filter.mp hc).2
  have hhi : ∀ c ∈ m.filter (fun c => a + bs.length ≤ c.1), a + bs.length ≤ c.1 :=
    fun c hc => by simpa using (List.mem_filter.mp hc).2
  constructor
  · unfold Memory.write
    rw [List.pairwise_append, List.pairwise_append]
    refine ⟨⟨hp.filter _, cells_pairwise a bs, ?_⟩, hp.filter _, ?_⟩
    · intro x hx y hy
      have := hlo x hx
      have := (mem_cells a bs y hy).1
      omega
    · intro x hx y hy
      have hy' := hhi y hy
      rcases List.mem_append.mp hx with hx | hx
      · have := hlo x hx
        omega
      · have := (mem_cells a bs x hx).2.1
        omega
  · intro c hm
    rcases List.mem_append.mp hm with hm | hm
    · rcases List.mem_append.mp hm with hm | hm
      · exact hc c (List.mem_filter.mp hm).1
      · obtain ⟨-, h2, h3⟩ := mem_cells a bs c hm
        exact ⟨h3, by omega⟩
    · exact hc c (List.mem_filter.mp hm).1

/-- The reset memory has the canonical form. -/
theorem reset_memory_wf : State.reset.fb.wf := by decide

end Sys2Proof.Laws
end

