-- ==== Sys2Proof/Laws/State.lean ====
section
/-!
SUPPORT. What each named update of the state does to each field, so that no proof unfolds a record update.
-/

namespace Sys2Proof.Laws

open Sys2Proof Sys2Proof.Machine Sys2Proof.Config

/-! `emit` -/

@[simp] theorem emit_params (bs : List Byte) (s : State) : (emit bs s).params = s.params := rfl
@[simp] theorem emit_st (bs : List Byte) (s : State) : (emit bs s).st = s.st := rfl
@[simp] theorem emit_role (bs : List Byte) (s : State) : (emit bs s).role = s.role := rfl
@[simp] theorem emit_blk1k (bs : List Byte) (s : State) : (emit bs s).blk1k = s.blk1k := rfl
@[simp] theorem emit_ckm (bs : List Byte) (s : State) : (emit bs s).ckm = s.ckm := rfl
@[simp] theorem emit_seq (bs : List Byte) (s : State) : (emit bs s).seq = s.seq := rfl
@[simp] theorem emit_err (bs : List Byte) (s : State) : (emit bs s).err = s.err := rfl
@[simp] theorem emit_rtry (bs : List Byte) (s : State) : (emit bs s).rtry = s.rtry := rfl
@[simp] theorem emit_last (bs : List Byte) (s : State) : (emit bs s).last = s.last := rfl
@[simp] theorem emit_idx (bs : List Byte) (s : State) : (emit bs s).idx = s.idx := rfl
@[simp] theorem emit_rseq (bs : List Byte) (s : State) : (emit bs s).rseq = s.rseq := rfl
@[simp] theorem emit_rcmp (bs : List Byte) (s : State) : (emit bs s).rcmp = s.rcmp := rfl
@[simp] theorem emit_pend (bs : List Byte) (s : State) : (emit bs s).pend = s.pend := rfl
@[simp] theorem emit_cxl (bs : List Byte) (s : State) : (emit bs s).cxl = s.cxl := rfl
@[simp] theorem emit_result (bs : List Byte) (s : State) : (emit bs s).result = s.result := rfl
@[simp] theorem emit_sptr (bs : List Byte) (s : State) : (emit bs s).sptr = s.sptr := rfl
@[simp] theorem emit_fb (bs : List Byte) (s : State) : (emit bs s).fb = s.fb := rfl
@[simp] theorem emit_rx (bs : List Byte) (s : State) : (emit bs s).rx = s.rx := rfl
@[simp] theorem emit_tx (bs : List Byte) (s : State) : (emit bs s).tx = s.tx ++ bs := rfl
@[simp] theorem emit_dst (bs : List Byte) (s : State) : (emit bs s).dst = s.dst := rfl
@[simp] theorem emit_src (bs : List Byte) (s : State) : (emit bs s).src = s.src := rfl
@[simp] theorem emit_srcPort (bs : List Byte) (s : State) : (emit bs s).srcPort = s.srcPort := rfl
@[simp] theorem emit_deadline (bs : List Byte) (s : State) : (emit bs s).deadline = s.deadline := rfl
@[simp] theorem emit_expired (bs : List Byte) (s : State) : (emit bs s).expired = s.expired := rfl
@[simp] theorem emit_sched (bs : List Byte) (s : State) : (emit bs s).sched = s.sched := rfl

/-! `timerStart` -/

@[simp] theorem timerStart_params (sel : TimerSel) (s : State) : (timerStart sel s).params = s.params := rfl
@[simp] theorem timerStart_st (sel : TimerSel) (s : State) : (timerStart sel s).st = s.st := rfl
@[simp] theorem timerStart_role (sel : TimerSel) (s : State) : (timerStart sel s).role = s.role := rfl
@[simp] theorem timerStart_blk1k (sel : TimerSel) (s : State) : (timerStart sel s).blk1k = s.blk1k := rfl
@[simp] theorem timerStart_ckm (sel : TimerSel) (s : State) : (timerStart sel s).ckm = s.ckm := rfl
@[simp] theorem timerStart_seq (sel : TimerSel) (s : State) : (timerStart sel s).seq = s.seq := rfl
@[simp] theorem timerStart_err (sel : TimerSel) (s : State) : (timerStart sel s).err = s.err := rfl
@[simp] theorem timerStart_rtry (sel : TimerSel) (s : State) : (timerStart sel s).rtry = s.rtry := rfl
@[simp] theorem timerStart_last (sel : TimerSel) (s : State) : (timerStart sel s).last = s.last := rfl
@[simp] theorem timerStart_idx (sel : TimerSel) (s : State) : (timerStart sel s).idx = s.idx := rfl
@[simp] theorem timerStart_rseq (sel : TimerSel) (s : State) : (timerStart sel s).rseq = s.rseq := rfl
@[simp] theorem timerStart_rcmp (sel : TimerSel) (s : State) : (timerStart sel s).rcmp = s.rcmp := rfl
@[simp] theorem timerStart_pend (sel : TimerSel) (s : State) : (timerStart sel s).pend = s.pend := rfl
@[simp] theorem timerStart_cxl (sel : TimerSel) (s : State) : (timerStart sel s).cxl = s.cxl := rfl
@[simp] theorem timerStart_result (sel : TimerSel) (s : State) : (timerStart sel s).result = s.result := rfl
@[simp] theorem timerStart_sptr (sel : TimerSel) (s : State) : (timerStart sel s).sptr = s.sptr := rfl
@[simp] theorem timerStart_fb (sel : TimerSel) (s : State) : (timerStart sel s).fb = s.fb := rfl
@[simp] theorem timerStart_rx (sel : TimerSel) (s : State) : (timerStart sel s).rx = s.rx := rfl
@[simp] theorem timerStart_tx (sel : TimerSel) (s : State) : (timerStart sel s).tx = s.tx := rfl
@[simp] theorem timerStart_dst (sel : TimerSel) (s : State) : (timerStart sel s).dst = s.dst := rfl
@[simp] theorem timerStart_src (sel : TimerSel) (s : State) : (timerStart sel s).src = s.src := rfl
@[simp] theorem timerStart_srcPort (sel : TimerSel) (s : State) : (timerStart sel s).srcPort = s.srcPort := rfl
@[simp] theorem timerStart_deadline (sel : TimerSel) (s : State) : (timerStart sel s).deadline = some sel := rfl
@[simp] theorem timerStart_expired (sel : TimerSel) (s : State) : (timerStart sel s).expired = false := rfl
@[simp] theorem timerStart_sched (sel : TimerSel) (s : State) : (timerStart sel s).sched = s.sched := rfl

/-! `dstAppend` -/

@[simp] theorem dstAppend_params (bs : List Byte) (s : State) : (dstAppend bs s).params = s.params := rfl
@[simp] theorem dstAppend_st (bs : List Byte) (s : State) : (dstAppend bs s).st = s.st := rfl
@[simp] theorem dstAppend_role (bs : List Byte) (s : State) : (dstAppend bs s).role = s.role := rfl
@[simp] theorem dstAppend_blk1k (bs : List Byte) (s : State) : (dstAppend bs s).blk1k = s.blk1k := rfl
@[simp] theorem dstAppend_ckm (bs : List Byte) (s : State) : (dstAppend bs s).ckm = s.ckm := rfl
@[simp] theorem dstAppend_seq (bs : List Byte) (s : State) : (dstAppend bs s).seq = s.seq := rfl
@[simp] theorem dstAppend_err (bs : List Byte) (s : State) : (dstAppend bs s).err = s.err := rfl
@[simp] theorem dstAppend_rtry (bs : List Byte) (s : State) : (dstAppend bs s).rtry = s.rtry := rfl
@[simp] theorem dstAppend_last (bs : List Byte) (s : State) : (dstAppend bs s).last = s.last := rfl
@[simp] theorem dstAppend_idx (bs : List Byte) (s : State) : (dstAppend bs s).idx = s.idx := rfl
@[simp] theorem dstAppend_rseq (bs : List Byte) (s : State) : (dstAppend bs s).rseq = s.rseq := rfl
@[simp] theorem dstAppend_rcmp (bs : List Byte) (s : State) : (dstAppend bs s).rcmp = s.rcmp := rfl
@[simp] theorem dstAppend_pend (bs : List Byte) (s : State) : (dstAppend bs s).pend = s.pend := rfl
@[simp] theorem dstAppend_cxl (bs : List Byte) (s : State) : (dstAppend bs s).cxl = s.cxl := rfl
@[simp] theorem dstAppend_result (bs : List Byte) (s : State) : (dstAppend bs s).result = s.result := rfl
@[simp] theorem dstAppend_sptr (bs : List Byte) (s : State) : (dstAppend bs s).sptr = s.sptr := rfl
@[simp] theorem dstAppend_fb (bs : List Byte) (s : State) : (dstAppend bs s).fb = s.fb := rfl
@[simp] theorem dstAppend_rx (bs : List Byte) (s : State) : (dstAppend bs s).rx = s.rx := rfl
@[simp] theorem dstAppend_tx (bs : List Byte) (s : State) : (dstAppend bs s).tx = s.tx := rfl
@[simp] theorem dstAppend_dst (bs : List Byte) (s : State) : (dstAppend bs s).dst = s.dst ++ bs := rfl
@[simp] theorem dstAppend_src (bs : List Byte) (s : State) : (dstAppend bs s).src = s.src := rfl
@[simp] theorem dstAppend_srcPort (bs : List Byte) (s : State) : (dstAppend bs s).srcPort = s.srcPort := rfl
@[simp] theorem dstAppend_deadline (bs : List Byte) (s : State) : (dstAppend bs s).deadline = s.deadline := rfl
@[simp] theorem dstAppend_expired (bs : List Byte) (s : State) : (dstAppend bs s).expired = s.expired := rfl
@[simp] theorem dstAppend_sched (bs : List Byte) (s : State) : (dstAppend bs s).sched = s.sched := rfl

/-! `endSession` -/

@[simp] theorem endSession_params (c : Cause) (s : State) : (endSession c s).params = s.params := rfl
@[simp] theorem endSession_st (c : Cause) (s : State) : (endSession c s).st = .done := rfl
@[simp] theorem endSession_role (c : Cause) (s : State) : (endSession c s).role = s.role := rfl
@[simp] theorem endSession_blk1k (c : Cause) (s : State) : (endSession c s).blk1k = s.blk1k := rfl
@[simp] theorem endSession_ckm (c : Cause) (s : State) : (endSession c s).ckm = s.ckm := rfl
@[simp] theorem endSession_seq (c : Cause) (s : State) : (endSession c s).seq = s.seq := rfl
@[simp] theorem endSession_err (c : Cause) (s : State) : (endSession c s).err = s.err := rfl
@[simp] theorem endSession_rtry (c : Cause) (s : State) : (endSession c s).rtry = s.rtry := rfl
@[simp] theorem endSession_last (c : Cause) (s : State) : (endSession c s).last = s.last := rfl
@[simp] theorem endSession_idx (c : Cause) (s : State) : (endSession c s).idx = s.idx := rfl
@[simp] theorem endSession_rseq (c : Cause) (s : State) : (endSession c s).rseq = s.rseq := rfl
@[simp] theorem endSession_rcmp (c : Cause) (s : State) : (endSession c s).rcmp = s.rcmp := rfl
@[simp] theorem endSession_pend (c : Cause) (s : State) : (endSession c s).pend = s.pend := rfl
@[simp] theorem endSession_cxl (c : Cause) (s : State) : (endSession c s).cxl = s.cxl := rfl
@[simp] theorem endSession_result (c : Cause) (s : State) : (endSession c s).result = c.result := rfl
@[simp] theorem endSession_sptr (c : Cause) (s : State) : (endSession c s).sptr = s.sptr := rfl
@[simp] theorem endSession_fb (c : Cause) (s : State) : (endSession c s).fb = s.fb := rfl
@[simp] theorem endSession_rx (c : Cause) (s : State) : (endSession c s).rx = s.rx := rfl
@[simp] theorem endSession_tx (c : Cause) (s : State) : (endSession c s).tx = s.tx := rfl
@[simp] theorem endSession_dst (c : Cause) (s : State) : (endSession c s).dst = s.dst := rfl
@[simp] theorem endSession_src (c : Cause) (s : State) : (endSession c s).src = s.src := rfl
@[simp] theorem endSession_srcPort (c : Cause) (s : State) : (endSession c s).srcPort = s.srcPort := rfl
@[simp] theorem endSession_deadline (c : Cause) (s : State) : (endSession c s).deadline = s.deadline := rfl
@[simp] theorem endSession_expired (c : Cause) (s : State) : (endSession c s).expired = s.expired := rfl
@[simp] theorem endSession_sched (c : Cause) (s : State) : (endSession c s).sched = s.sched := rfl

/-! `cancelSignal` -/

@[simp] theorem cancelSignal_params (s : State) : (cancelSignal s).params = s.params := rfl
@[simp] theorem cancelSignal_st (s : State) : (cancelSignal s).st = s.st := rfl
@[simp] theorem cancelSignal_role (s : State) : (cancelSignal s).role = s.role := rfl
@[simp] theorem cancelSignal_blk1k (s : State) : (cancelSignal s).blk1k = s.blk1k := rfl
@[simp] theorem cancelSignal_ckm (s : State) : (cancelSignal s).ckm = s.ckm := rfl
@[simp] theorem cancelSignal_seq (s : State) : (cancelSignal s).seq = s.seq := rfl
@[simp] theorem cancelSignal_err (s : State) : (cancelSignal s).err = s.err := rfl
@[simp] theorem cancelSignal_rtry (s : State) : (cancelSignal s).rtry = s.rtry := rfl
@[simp] theorem cancelSignal_last (s : State) : (cancelSignal s).last = s.last := rfl
@[simp] theorem cancelSignal_idx (s : State) : (cancelSignal s).idx = s.idx := rfl
@[simp] theorem cancelSignal_rseq (s : State) : (cancelSignal s).rseq = s.rseq := rfl
@[simp] theorem cancelSignal_rcmp (s : State) : (cancelSignal s).rcmp = s.rcmp := rfl
@[simp] theorem cancelSignal_pend (s : State) : (cancelSignal s).pend = s.pend := rfl
@[simp] theorem cancelSignal_cxl (s : State) : (cancelSignal s).cxl = s.cxl := rfl
@[simp] theorem cancelSignal_result (s : State) : (cancelSignal s).result = s.result := rfl
@[simp] theorem cancelSignal_sptr (s : State) : (cancelSignal s).sptr = s.sptr := rfl
@[simp] theorem cancelSignal_fb (s : State) : (cancelSignal s).fb = s.fb := rfl
@[simp] theorem cancelSignal_rx (s : State) : (cancelSignal s).rx = s.rx := rfl
@[simp] theorem cancelSignal_tx (s : State) : (cancelSignal s).tx = s.tx ++ [CAN, CAN] := rfl
@[simp] theorem cancelSignal_dst (s : State) : (cancelSignal s).dst = s.dst := rfl
@[simp] theorem cancelSignal_src (s : State) : (cancelSignal s).src = s.src := rfl
@[simp] theorem cancelSignal_srcPort (s : State) : (cancelSignal s).srcPort = s.srcPort := rfl
@[simp] theorem cancelSignal_deadline (s : State) : (cancelSignal s).deadline = s.deadline := rfl
@[simp] theorem cancelSignal_expired (s : State) : (cancelSignal s).expired = s.expired := rfl
@[simp] theorem cancelSignal_sched (s : State) : (cancelSignal s).sched = s.sched := rfl

end Sys2Proof.Laws
end

