-- ==== Sys2Proof/Laws/Moves.lean ====
section
/-!
SUPPORT. Said once: everything a step can do. Each shared operation of the sender and receiver has one equation per
case and one inversion lemma; `EngineMove` and `Move` list the transitions of the engine and of all agents with the
state each leaves, and `engineTurn_move` and `step_move` say there is no other. Whole-machine statements follow by
cases on a move.
-/

namespace Sys2Proof.Laws

open Sys2Proof Sys2Proof.Machine Sys2Proof.Config

/-! The primitives that can stop. -/

theorem takeByte_cons {b : Byte} {rest : List Byte} {k : State → Result} {s : State} (h : s.rx = b :: rest) :
    takeByte b k s = k { s with rx := rest } := by
  simp [takeByte, h]

theorem takeByte_next {b : Byte} {k : State → Result} {s t : State} (h : takeByte b k s = .next t) :
    ∃ rest, s.rx = b :: rest ∧ k { s with rx := rest } = .next t := by
  unfold takeByte at h
  split at h
  · cases h
  · rename_i hd tl hrx
    split at h
    · rename_i hb
      subst hb
      exact ⟨tl, hrx, h⟩
    · cases h

theorem fbWrite_ok {a : Nat} {bs : List Byte} {k : State → Result} {s : State} (h : a + bs.length ≤ fbSize) :
    fbWrite a bs k s = k { s with fb := s.fb.write a bs } := if_pos h

theorem fbWrite_next {a : Nat} {bs : List Byte} {k : State → Result} {s t : State} (h : fbWrite a bs k s = .next t) :
    a + bs.length ≤ fbSize ∧ k { s with fb := s.fb.write a bs } = .next t := by
  unfold fbWrite at h
  split at h
  · exact ⟨‹_›, h⟩
  · cases h

/-! Geometry. -/

theorem blockSize_le (x : Bool) : blockSize x ≤ 1024 := by cases x <;> decide

theorem blockSize_pos (x : Bool) : 0 < blockSize x := by cases x <;> decide

theorem trailerLength_le {m : ChecksumMode} {tl : Nat} (h : trailerLength m = some tl) : 1 ≤ tl ∧ tl ≤ 2 := by
  cases m <;> simp [trailerLength, lSum8, lCrc16] at h <;> omega

theorem padded_length {n : Nat} {c : List Byte} (h : c.length ≤ n) : (padded n c).length = n := by
  simp [padded]; omega

theorem padded_take_length (n : Nat) (l : List Byte) : (padded n (l.take n)).length = n :=
  padded_length (by simp)

theorem ckAppend_length {u : ChecksumUnit} {m : ChecksumMode} {p t : List Byte} (h : ckAppend u m p = some t) :
    trailerLength m = some t.length := by
  cases m <;> cases u <;>
    simp only [ckAppend, crc16Trailer, Option.some.injEq, reduceCtorEq] at h <;> subst h <;> rfl

theorem ckAppend_of_mode (u : ChecksumUnit) {m : ChecksumMode} (h : m = .sum8 ∨ m = .crc16) (p : List Byte) :
    ∃ t, ckAppend u m p = some t := by
  rcases h with rfl | rfl <;> cases u <;> exact ⟨_, rfl⟩

/-! The sender's procedures. -/

/-- The payload of the next chunk (R105, R171). -/
def nextPayload (s : State) : List Byte := padded (bsz s) ((s.src.drop s.sptr).take (bsz s))

/-- What SendFrame leaves when the payload in FB is p and its trailer t (R172). -/
def frameSent (p t : List Byte) (s : State) : State :=
  { s with
    tx := s.tx ++ frameBytes s.blk1k s.seq p t, deadline := some .txResp, expired := false, st := .txBlkWait }

theorem sendFrame_ok {s : State} {t : List Byte}
    (h : ckAppend s.params.checksum s.ckm (s.fb.readN 0 (bsz s)) = some t) :
    sendFrame s = .next (frameSent (s.fb.readN 0 (bsz s)) t s) := by
  simp [sendFrame, h, frameSent, emit, timerStart]

theorem sendFrame_next {s t : State} (h : sendFrame s = .next t) :
    ∃ tr, ckAppend s.params.checksum s.ckm (s.fb.readN 0 (bsz s)) = some tr ∧
      t = frameSent (s.fb.readN 0 (bsz s)) tr s := by
  cases hc : ckAppend s.params.checksum s.ckm (s.fb.readN 0 (bsz s)) with
  | none => simp [sendFrame, hc] at h
  | some tr =>
    rw [sendFrame_ok hc] at h
    cases h
    exact ⟨tr, rfl, rfl⟩

/-- What NextChunk can do (R171). -/
inductive ChunkMove (s : State) : State → Prop
  | eot (h : s.sptr = s.src.length) :
    ChunkMove s
      { s with
        rtry := 1#8, tx := s.tx ++ [EOT], deadline := some .txEot, expired := false, st := .txEotWait }
  | frame (tr : List Byte) (h : s.sptr < s.src.length)
      (htr : ckAppend s.params.checksum s.ckm (nextPayload s) = some tr) :
    ChunkMove s
      (frameSent (nextPayload s) tr
        { s with
          fb := s.fb.write 0 (nextPayload s), sptr := s.sptr + min (bsz s) (s.src.length - s.sptr) })

theorem take_min_drop (l : List Byte) (a n : Nat) :
    (l.drop a).take (min n (l.length - a)) = (l.drop a).take n := by
  rw [List.take_eq_take_iff]; simp

theorem nextChunk_eot {s : State} (h : s.sptr = s.src.length) :
    nextChunk s = .next
      { s with
        rtry := 1#8, tx := s.tx ++ [EOT], deadline := some .txEot, expired := false, st := .txEotWait } := by
  simp [nextChunk, h, emit, timerStart]

/-- NextChunk with a chunk left, up to the trailer of its payload. -/
theorem nextChunk_chunk {s : State} (h : s.sptr < s.src.length) :
    nextChunk s = sendFrame
      { s with
        fb := s.fb.write 0 (nextPayload s), sptr := s.sptr + min (bsz s) (s.src.length - s.sptr) } := by
  have hr : srcRead s.sptr (min (bsz s) (s.src.length - s.sptr)) s = some ((s.src.drop s.sptr).take (bsz s)) := by
    unfold srcRead
    rw [if_pos (by omega), take_min_drop]
  have hl := padded_take_length (bsz s) (s.src.drop s.sptr)
  have hb := blockSize_le s.blk1k
  unfold nextChunk
  rw [if_neg (by omega)]
  simp only [hr]
  rw [fbWrite_ok (by rw [hl]; unfold bsz fbSize; omega)]
  rfl

theorem nextChunk_frame {s : State} {tr : List Byte} (h : s.sptr < s.src.length)
    (htr : ckAppend s.params.checksum s.ckm (nextPayload s) = some tr) :
    nextChunk s = .next
      (frameSent (nextPayload s) tr
        { s with
          fb := s.fb.write 0 (nextPayload s), sptr := s.sptr + min (bsz s) (s.src.length - s.sptr) }) := by
  have hl : (nextPayload s).length = bsz s := padded_take_length _ _
  have hread : (s.fb.write 0 (nextPayload s)).readN 0 (bsz s) = nextPayload s := by
    have := readN_write_self s.fb 0 (nextPayload s)
    rwa [hl] at this
  rw [nextChunk_chunk h, sendFrame_ok (t := tr)]
  · simp only [bsz] at hread ⊢
    rw [hread]
  · simp only [bsz] at hread ⊢
    rw [hread]; exact htr

theorem nextChunk_move {s t : State} (h : nextChunk s = .next t) : ChunkMove s t := by
  rcases Nat.lt_trichotomy s.sptr s.src.length with hlt | heq | hgt
  · cases hc : ckAppend s.params.checksum s.ckm (nextPayload s) with
    | none =>
      have hl : (nextPayload s).length = bsz s := padded_take_length _ _
      have hread : (s.fb.write 0 (nextPayload s)).readN 0 (bsz s) = nextPayload s := by
        have := readN_write_self s.fb 0 (nextPayload s)
        rwa [hl] at this
      rw [nextChunk_chunk hlt] at h
      obtain ⟨tr, htr, -⟩ := sendFrame_next h
      simp only [bsz] at hread htr
      rw [hread, hc] at htr
      cases htr
    | some tr =>
      rw [nextChunk_frame hlt hc] at h
      cases h
      exact .frame tr hlt hc
  · rw [nextChunk_eot heq] at h
    cases h
    exact .eot heq
  · have hr : ∀ n, srcRead s.sptr n s = none := fun n => if_neg (by omega)
    unfold nextChunk at h
    rw [if_neg (by omega)] at h
    simp [hr] at h

/-- What BlockError can do (R177). -/
inductive ErrorMove (s : State) : State → Prop
  | exhausted (h : s.err + 1#8 = s.params.nMaxErr) :
    ErrorMove s
      { s with
        err := s.err + 1#8, tx := s.tx ++ [CAN, CAN], result := Cause.result .txTooManyErrors, st := .done }
  | again (tr : List Byte) (h : s.err + 1#8 ≠ s.params.nMaxErr)
      (htr : ckAppend s.params.checksum s.ckm (s.fb.readN 0 (bsz s)) = some tr) :
    ErrorMove s (frameSent (s.fb.readN 0 (bsz s)) tr { s with err := s.err + 1#8 })

theorem blockError_exhausted {s : State} (h : s.err + 1#8 = s.params.nMaxErr) :
    blockError s = .next
      { s with
        err := s.err + 1#8, tx := s.tx ++ [CAN, CAN], result := Cause.result .txTooManyErrors, st := .done } := by
  simp [blockError, h, fail, endSession, cancelSignal, emit]

theorem blockError_again {s : State} {tr : List Byte} (h : s.err + 1#8 ≠ s.params.nMaxErr)
    (htr : ckAppend s.params.checksum s.ckm (s.fb.readN 0 (bsz s)) = some tr) :
    blockError s = .next (frameSent (s.fb.readN 0 (bsz s)) tr { s with err := s.err + 1#8 }) := by
  unfold blockError
  rw [if_neg h]
  exact sendFrame_ok htr

theorem blockError_move {s t : State} (h : blockError s = .next t) : ErrorMove s t := by
  by_cases hn : s.err + 1#8 = s.params.nMaxErr
  · rw [blockError_exhausted hn] at h
    cases h
    exact .exhausted hn
  · unfold blockError at h
    rw [if_neg hn] at h
    obtain ⟨tr, htr, rfl⟩ := sendFrame_next h
    exact .again tr hn htr

/-! The receiver's procedures. -/

/-- What EnterNextWait leaves (R218). -/
def nextWait (s : State) : State :=
  { s with rtry := 0x00#8, deadline := some .rxNext, expired := false, st := .rxNextWait }

theorem enterNextWait_eq (s : State) : enterNextWait s = .next (nextWait s) := rfl

/-- What Respond(ACCEPT) leaves (R215). -/
def accepted (s : State) : State :=
  nextWait
    { s with
      dst := s.dst ++ s.fb.readN 0 (bsz s), seq := seqNext s.seq, err := 0x00#8, tx := s.tx ++ [ACK], last := true }

theorem respondAccept_eq (s : State) : respondAccept s = .next (accepted s) := rfl

/-- What Respond(DUP) leaves (R216). -/
def duplicateAnswered (s : State) : State := nextWait { s with tx := s.tx ++ [ACK], last := true }

theorem respondDup_eq (s : State) : respondDup s = .next (duplicateAnswered s) := rfl

/-- What Respond(INVALID) leaves (R217). -/
def invalidAnswered (s : State) : State :=
  if s.err + 1#8 = s.params.nMaxErr then
    { s with
      err := s.err + 1#8, tx := s.tx ++ [CAN, CAN], result := Cause.result .rxTooManyErrors, st := .done }
  else nextWait { s with err := s.err + 1#8, tx := s.tx ++ [NAK], last := false }

theorem respondInvalid_eq (s : State) : respondInvalid s = .next (invalidAnswered s) := by
  unfold respondInvalid invalidAnswered
  by_cases h : s.err + 1#8 = s.params.nMaxErr
  · simp only [if_pos h]; rfl
  · simp only [if_neg h]; rfl

theorem respondPending_next {s t : State} (h : respondPending s = .next t) :
    (s.pend = .dup ∧ t = duplicateAnswered s) ∨ (s.pend = .invalid ∧ t = invalidAnswered s) := by
  unfold respondPending at h
  split at h
  · rw [respondDup_eq] at h; cases h; exact .inl ⟨‹_›, rfl⟩
  · rw [respondInvalid_eq] at h; cases h; exact .inr ⟨‹_›, rfl⟩
  · cases h
  · cases h

/-- What SyncLost leaves (R207). -/
def desynchronised (s : State) : State :=
  { s with tx := s.tx ++ [CAN, CAN], result := Cause.result .rxSyncLost, st := .done }

theorem syncLost_eq (s : State) : syncLost s = .next (desynchronised s) := rfl

/-- What BeginFrame leaves (R204). -/
def frameBegun (blk1k : Bool) (s : State) : State :=
  { s with blk1k := blk1k, deadline := some .rxBlk, expired := false, st := .rxSeq }

theorem beginFrame_eq (x : Bool) (s : State) : beginFrame x s = .next (frameBegun x s) := rfl

/-- What a rejected frame leaves (R206). -/
def rejected (p : Pending) (s : State) : State :=
  if s.params.drainOnReject then { s with pend := p, idx := 0#11, st := .rxDrain }
  else if p = .dup then duplicateAnswered s
  else invalidAnswered s

theorem reject_eq (p : Pending) (s : State) : reject p s = .next (rejected p s) := by
  unfold reject rejected
  split
  · rfl
  · split
    · exact respondDup_eq s
    · exact respondInvalid_eq s

/-- What the complement byte leaves (R206), given the state with RCMP written. -/
def complemented (s : State) : State :=
  match classify s.seq s.rseq s.rcmp with
  | .dup => rejected .dup s
  | .sync => desynchronised s
  | .invalid => rejected .invalid s
  | .candidate => { s with idx := 0#11, st := .rxData }

theorem complementByte_eq (c : Byte) (s : State) : complementByte c s = .next (complemented { s with rcmp := c }) := by
  unfold complementByte complemented
  dsimp only
  cases classify s.seq s.rseq c
  · exact reject_eq _ _
  · rfl
  · exact reject_eq _ _
  · rfl

/-- What the last trailer byte leaves (R208). -/
def verified (tlen : Nat) (s : State) : State :=
  if ckVerify s.params.checksum s.ckm (s.fb.readN 0 (bsz s)) (s.fb.readN (bsz s) tlen) then accepted s
  else invalidAnswered s

theorem verifyFrame_eq (tlen : Nat) (s : State) : verifyFrame tlen s = .next (verified tlen s) := by
  unfold verifyFrame verified
  dsimp only
  split
  · exact respondAccept_eq s
  · exact respondInvalid_eq s

/-- What a data byte writes (R208). -/
def stored (b : Byte) (s : State) : State := { s with fb := s.fb.write s.idx.toNat [b], idx := s.idx + 1#11 }

theorem dataByte_ok {b : Byte} {s : State} {tl : Nat} (htl : trailerLength s.ckm = some tl)
    (hin : s.idx.toNat < fbSize) :
    dataByte b s = .next
      (if (s.idx + 1#11).toNat = bsz s + tl then verified tl (stored b s) else stored b s) := by
  unfold dataByte
  simp only [htl]
  rw [fbWrite_ok (by simpa using hin)]
  dsimp only
  split
  · rename_i h
    rw [if_pos (by exact h)]
    exact verifyFrame_eq tl (stored b s)
  · rename_i h
    rw [if_neg (by exact h)]
    rfl

theorem dataByte_next {b : Byte} {s t : State} (h : dataByte b s = .next t) :
    ∃ tl, trailerLength s.ckm = some tl ∧ s.idx.toNat < fbSize ∧
      t = if (s.idx + 1#11).toNat = bsz s + tl then verified tl (stored b s) else stored b s := by
  cases htl : trailerLength s.ckm with
  | none => simp [dataByte, htl] at h
  | some tl =>
    have hin : s.idx.toNat < fbSize := by
      unfold dataByte at h
      simp only [htl] at h
      simpa using (fbWrite_next h).1
    rw [dataByte_ok htl hin] at h
    cases h
    exact ⟨tl, rfl, hin, rfl⟩

theorem drainByte_next {s t : State} (h : drainByte s = .next t) :
    ∃ tl, trailerLength s.ckm = some tl ∧
      (((s.idx + 1#11).toNat = bsz s + tl ∧ respondPending { s with idx := s.idx + 1#11 } = .next t) ∨
        ((s.idx + 1#11).toNat ≠ bsz s + tl ∧ t = { s with idx := s.idx + 1#11 })) := by
  cases htl : trailerLength s.ckm with
  | none => simp [drainByte, htl] at h
  | some tl =>
    refine ⟨tl, rfl, ?_⟩
    unfold drainByte at h
    simp only [htl] at h
    split at h
    · exact .inl ⟨‹_›, h⟩
    · cases h; exact .inr ⟨‹_›, rfl⟩

/-! What an answer, a rejection, a complement byte and a last trailer byte leave alone. -/

@[simp] theorem invalidAnswered_params (s : State) : (invalidAnswered s).params = s.params := by
  unfold invalidAnswered; split <;> rfl
@[simp] theorem invalidAnswered_role (s : State) : (invalidAnswered s).role = s.role := by
  unfold invalidAnswered; split <;> rfl
@[simp] theorem invalidAnswered_blk1k (s : State) : (invalidAnswered s).blk1k = s.blk1k := by
  unfold invalidAnswered; split <;> rfl
@[simp] theorem invalidAnswered_ckm (s : State) : (invalidAnswered s).ckm = s.ckm := by
  unfold invalidAnswered; split <;> rfl
@[simp] theorem invalidAnswered_seq (s : State) : (invalidAnswered s).seq = s.seq := by
  unfold invalidAnswered; split <;> rfl
@[simp] theorem invalidAnswered_idx (s : State) : (invalidAnswered s).idx = s.idx := by
  unfold invalidAnswered; split <;> rfl
@[simp] theorem invalidAnswered_rseq (s : State) : (invalidAnswered s).rseq = s.rseq := by
  unfold invalidAnswered; split <;> rfl
@[simp] theorem invalidAnswered_rcmp (s : State) : (invalidAnswered s).rcmp = s.rcmp := by
  unfold invalidAnswered; split <;> rfl
@[simp] theorem invalidAnswered_pend (s : State) : (invalidAnswered s).pend = s.pend := by
  unfold invalidAnswered; split <;> rfl
@[simp] theorem invalidAnswered_cxl (s : State) : (invalidAnswered s).cxl = s.cxl := by
  unfold invalidAnswered; split <;> rfl
@[simp] theorem invalidAnswered_sptr (s : State) : (invalidAnswered s).sptr = s.sptr := by
  unfold invalidAnswered; split <;> rfl
@[simp] theorem invalidAnswered_fb (s : State) : (invalidAnswered s).fb = s.fb := by
  unfold invalidAnswered; split <;> rfl
@[simp] theorem invalidAnswered_rx (s : State) : (invalidAnswered s).rx = s.rx := by
  unfold invalidAnswered; split <;> rfl
@[simp] theorem invalidAnswered_dst (s : State) : (invalidAnswered s).dst = s.dst := by
  unfold invalidAnswered; split <;> rfl
@[simp] theorem invalidAnswered_src (s : State) : (invalidAnswered s).src = s.src := by
  unfold invalidAnswered; split <;> rfl
@[simp] theorem invalidAnswered_srcPort (s : State) : (invalidAnswered s).srcPort = s.srcPort := by
  unfold invalidAnswered; split <;> rfl
@[simp] theorem invalidAnswered_sched (s : State) : (invalidAnswered s).sched = s.sched := by
  unfold invalidAnswered; split <;> rfl

@[simp] theorem rejected_params (p : Pending) (s : State) : (rejected p s).params = s.params := by
  unfold rejected; split
  · rfl
  · split
    · rfl
    · exact invalidAnswered_params s
@[simp] theorem rejected_role (p : Pending) (s : State) : (rejected p s).role = s.role := by
  unfold rejected; split
  · rfl
  · split
    · rfl
    · exact invalidAnswered_role s
@[simp] theorem rejected_blk1k (p : Pending) (s : State) : (rejected p s).blk1k = s.blk1k := by
  unfold rejected; split
  · rfl
  · split
    · rfl
    · exact invalidAnswered_blk1k s
@[simp] theorem rejected_ckm (p : Pending) (s : State) : (rejected p s).ckm = s.ckm := by
  unfold rejected; split
  · rfl
  · split
    · rfl
    · exact invalidAnswered_ckm s
@[simp] theorem rejected_seq (p : Pending) (s : State) : (rejected p s).seq = s.seq := by
  unfold rejected; split
  · rfl
  · split
    · rfl
    · exact invalidAnswered_seq s
@[simp] theorem rejected_rseq (p : Pending) (s : State) : (rejected p s).rseq = s.rseq := by
  unfold rejected; split
  · rfl
  · split
    · rfl
    · exact invalidAnswered_rseq s
@[simp] theorem rejected_rcmp (p : Pending) (s : State) : (rejected p s).rcmp = s.rcmp := by
  unfold rejected; split
  · rfl
  · split
    · rfl
    · exact invalidAnswered_rcmp s
@[simp] theorem rejected_cxl (p : Pending) (s : State) : (rejected p s).cxl = s.cxl := by
  unfold rejected; split
  · rfl
  · split
    · rfl
    · exact invalidAnswered_cxl s
@[simp] theorem rejected_sptr (p : Pending) (s : State) : (rejected p s).sptr = s.sptr := by
  unfold rejected; split
  · rfl
  · split
    · rfl
    · exact invalidAnswered_sptr s
@[simp] theorem rejected_fb (p : Pending) (s : State) : (rejected p s).fb = s.fb := by
  unfold rejected; split
  · rfl
  · split
    · rfl
    · exact invalidAnswered_fb s
@[simp] theorem rejected_rx (p : Pending) (s : State) : (rejected p s).rx = s.rx := by
  unfold rejected; split
  · rfl
  · split
    · rfl
    · exact invalidAnswered_rx s
@[simp] theorem rejected_dst (p : Pending) (s : State) : (rejected p s).dst = s.dst := by
  unfold rejected; split
  · rfl
  · split
    · rfl
    · exact invalidAnswered_dst s
@[simp] theorem rejected_src (p : Pending) (s : State) : (rejected p s).src = s.src := by
  unfold rejected; split
  · rfl
  · split
    · rfl
    · exact invalidAnswered_src s
@[simp] theorem rejected_srcPort (p : Pending) (s : State) : (rejected p s).srcPort = s.srcPort := by
  unfold rejected; split
  · rfl
  · split
    · rfl
    · exact invalidAnswered_srcPort s
@[simp] theorem rejected_sched (p : Pending) (s : State) : (rejected p s).sched = s.sched := by
  unfold rejected; split
  · rfl
  · split
    · rfl
    · exact invalidAnswered_sched s

@[simp] theorem complemented_params (s : State) : (complemented s).params = s.params := by
  unfold complemented
  cases classify s.seq s.rseq s.rcmp
  · exact rejected_params _ s
  · rfl
  · exact rejected_params _ s
  · rfl
@[simp] theorem complemented_role (s : State) : (complemented s).role = s.role := by
  unfold complemented
  cases classify s.seq s.rseq s.rcmp
  · exact rejected_role _ s
  · rfl
  · exact rejected_role _ s
  · rfl
@[simp] theorem complemented_blk1k (s : State) : (complemented s).blk1k = s.blk1k := by
  unfold complemented
  cases classify s.seq s.rseq s.rcmp
  · exact rejected_blk1k _ s
  · rfl
  · exact rejected_blk1k _ s
  · rfl
@[simp] theorem complemented_ckm (s : State) : (complemented s).ckm = s.ckm := by
  unfold complemented
  cases classify s.seq s.rseq s.rcmp
  · exact rejected_ckm _ s
  · rfl
  · exact rejected_ckm _ s
  · rfl
@[simp] theorem complemented_seq (s : State) : (complemented s).seq = s.seq := by
  unfold complemented
  cases classify s.seq s.rseq s.rcmp
  · exact rejected_seq _ s
  · rfl
  · exact rejected_seq _ s
  · rfl
@[simp] theorem complemented_rseq (s : State) : (complemented s).rseq = s.rseq := by
  unfold complemented
  cases classify s.seq s.rseq s.rcmp
  · exact rejected_rseq _ s
  · rfl
  · exact rejected_rseq _ s
  · rfl
@[simp] theorem complemented_rcmp (s : State) : (complemented s).rcmp = s.rcmp := by
  unfold complemented
  cases classify s.seq s.rseq s.rcmp
  · exact rejected_rcmp _ s
  · rfl
  · exact rejected_rcmp _ s
  · rfl
@[simp] theorem complemented_cxl (s : State) : (complemented s).cxl = s.cxl := by
  unfold complemented
  cases classify s.seq s.rseq s.rcmp
  · exact rejected_cxl _ s
  · rfl
  · exact rejected_cxl _ s
  · rfl
@[simp] theorem complemented_sptr (s : State) : (complemented s).sptr = s.sptr := by
  unfold complemented
  cases classify s.seq s.rseq s.rcmp
  · exact rejected_sptr _ s
  · rfl
  · exact rejected_sptr _ s
  · rfl
@[simp] theorem complemented_fb (s : State) : (complemented s).fb = s.fb := by
  unfold complemented
  cases classify s.seq s.rseq s.rcmp
  · exact rejected_fb _ s
  · rfl
  · exact rejected_fb _ s
  · rfl
@[simp] theorem complemented_rx (s : State) : (complemented s).rx = s.rx := by
  unfold complemented
  cases classify s.seq s.rseq s.rcmp
  · exact rejected_rx _ s
  · rfl
  · exact rejected_rx _ s
  · rfl
@[simp] theorem complemented_dst (s : State) : (complemented s).dst = s.dst := by
  unfold complemented
  cases classify s.seq s.rseq s.rcmp
  · exact rejected_dst _ s
  · rfl
  · exact rejected_dst _ s
  · rfl
@[simp] theorem complemented_src (s : State) : (complemented s).src = s.src := by
  unfold complemented
  cases classify s.seq s.rseq s.rcmp
  · exact rejected_src _ s
  · rfl
  · exact rejected_src _ s
  · rfl
@[simp] theorem complemented_srcPort (s : State) : (complemented s).srcPort = s.srcPort := by
  unfold complemented
  cases classify s.seq s.rseq s.rcmp
  · exact rejected_srcPort _ s
  · rfl
  · exact rejected_srcPort _ s
  · rfl
@[simp] theorem complemented_sched (s : State) : (complemented s).sched = s.sched := by
  unfold complemented
  cases classify s.seq s.rseq s.rcmp
  · exact rejected_sched _ s
  · rfl
  · exact rejected_sched _ s
  · rfl

@[simp] theorem verified_params (tl : Nat) (s : State) : (verified tl s).params = s.params := by
  unfold verified; split
  · rfl
  · exact invalidAnswered_params s
@[simp] theorem verified_role (tl : Nat) (s : State) : (verified tl s).role = s.role := by
  unfold verified; split
  · rfl
  · exact invalidAnswered_role s
@[simp] theorem verified_blk1k (tl : Nat) (s : State) : (verified tl s).blk1k = s.blk1k := by
  unfold verified; split
  · rfl
  · exact invalidAnswered_blk1k s
@[simp] theorem verified_ckm (tl : Nat) (s : State) : (verified tl s).ckm = s.ckm := by
  unfold verified; split
  · rfl
  · exact invalidAnswered_ckm s
@[simp] theorem verified_idx (tl : Nat) (s : State) : (verified tl s).idx = s.idx := by
  unfold verified; split
  · rfl
  · exact invalidAnswered_idx s
@[simp] theorem verified_rseq (tl : Nat) (s : State) : (verified tl s).rseq = s.rseq := by
  unfold verified; split
  · rfl
  · exact invalidAnswered_rseq s
@[simp] theorem verified_rcmp (tl : Nat) (s : State) : (verified tl s).rcmp = s.rcmp := by
  unfold verified; split
  · rfl
  · exact invalidAnswered_rcmp s
@[simp] theorem verified_pend (tl : Nat) (s : State) : (verified tl s).pend = s.pend := by
  unfold verified; split
  · rfl
  · exact invalidAnswered_pend s
@[simp] theorem verified_cxl (tl : Nat) (s : State) : (verified tl s).cxl = s.cxl := by
  unfold verified; split
  · rfl
  · exact invalidAnswered_cxl s
@[simp] theorem verified_sptr (tl : Nat) (s : State) : (verified tl s).sptr = s.sptr := by
  unfold verified; split
  · rfl
  · exact invalidAnswered_sptr s
@[simp] theorem verified_fb (tl : Nat) (s : State) : (verified tl s).fb = s.fb := by
  unfold verified; split
  · rfl
  · exact invalidAnswered_fb s
@[simp] theorem verified_rx (tl : Nat) (s : State) : (verified tl s).rx = s.rx := by
  unfold verified; split
  · rfl
  · exact invalidAnswered_rx s
@[simp] theorem verified_src (tl : Nat) (s : State) : (verified tl s).src = s.src := by
  unfold verified; split
  · rfl
  · exact invalidAnswered_src s
@[simp] theorem verified_srcPort (tl : Nat) (s : State) : (verified tl s).srcPort = s.srcPort := by
  unfold verified; split
  · rfl
  · exact invalidAnswered_srcPort s
@[simp] theorem verified_sched (tl : Nat) (s : State) : (verified tl s).sched = s.sched := by
  unfold verified; split
  · rfl
  · exact invalidAnswered_sched s

/-! Every transition of the engine. -/

/-- The wait states outside a frame. -/
def outsideFrame : FsmState → Prop
  | .txHsWait => True
  | .txBlkWait => True
  | .txEotWait => True
  | .rxHsWait => True
  | .rxNextWait => True
  | .idle => False
  | .rxSeq => False
  | .rxCmpl => False
  | .rxData => False
  | .rxDrain => False
  | .done => False
  | .reserved _ => False

/-- The bytes a wait state outside a frame has a rule for (R253's byte columns). -/
def namedBytes : FsmState → List Byte
  | .txHsWait => [NAK, CRQ]
  | .txBlkWait => [ACK, NAK, CAN]
  | .txEotWait => [ACK, CAN]
  | .rxHsWait => [SOH, STX]
  | .rxNextWait => [SOH, STX, EOT]
  | .idle => []
  | .rxSeq => []
  | .rxCmpl => []
  | .rxData => []
  | .rxDrain => []
  | .done => []
  | .reserved _ => []

/-- The state after `RxPop()`. -/
def popped (rest : List Byte) (s : State) : State := { s with rx := rest }

/-- What a byte at the head of RX can do (R253's byte columns). -/
inductive ByteMove (s : State) (b : Byte) (rest : List Byte) : State → Prop
  | discarded (h : outsideFrame s.st) (hb : b ∉ namedBytes s.st) : ByteMove s b rest (popped rest s)
  | request (m : ChecksumMode) (t : State) (h : s.st = .txHsWait) (hb : b = NAK ∧ m = .sum8 ∨ b = CRQ ∧ m = .crc16)
      (hc : ChunkMove { popped rest s with ckm := m } t) : ByteMove s b rest t
  | acked (t : State) (h : s.st = .txBlkWait) (hb : b = ACK)
      (hc : ChunkMove { popped rest s with seq := seqNext s.seq, err := 0x00#8 } t) : ByteMove s b rest t
  | naked (t : State) (h : s.st = .txBlkWait) (hb : b = NAK) (hc : ErrorMove (popped rest s) t) : ByteMove s b rest t
  | blockCancelled (h : s.st = .txBlkWait) (hb : b = CAN) :
    ByteMove s b rest (endSession .txPeerCanBlock (popped rest s))
  | eotAcked (h : s.st = .txEotWait) (hb : b = ACK) : ByteMove s b rest (endSession .txOkAcked (popped rest s))
  | eotCancelled (h : s.st = .txEotWait) (hb : b = CAN) :
    ByteMove s b rest (endSession .txPeerCanEot (popped rest s))
  | frameStart (x : Bool) (h : s.st = .rxHsWait ∨ s.st = .rxNextWait) (hb : b = header x) :
    ByteMove s b rest (frameBegun x (popped rest s))
  | sequence (h : s.st = .rxSeq) : ByteMove s b rest { popped rest s with rseq := b, st := .rxCmpl }
  | complement (h : s.st = .rxCmpl) : ByteMove s b rest (complemented { popped rest s with rcmp := b })
  | data (tl : Nat) (h : s.st = .rxData) (htl : trailerLength s.ckm = some tl) (hin : s.idx.toNat < fbSize)
      (hn : (s.idx + 1#11).toNat ≠ bsz s + tl) : ByteMove s b rest (stored b (popped rest s))
  | lastData (tl : Nat) (h : s.st = .rxData) (htl : trailerLength s.ckm = some tl) (hin : s.idx.toNat < fbSize)
      (hn : (s.idx + 1#11).toNat = bsz s + tl) : ByteMove s b rest (verified tl (stored b (popped rest s)))
  | drain (tl : Nat) (h : s.st = .rxDrain) (htl : trailerLength s.ckm = some tl)
      (hn : (s.idx + 1#11).toNat ≠ bsz s + tl) : ByteMove s b rest { popped rest s with idx := s.idx + 1#11 }
  | lastDrainDup (tl : Nat) (h : s.st = .rxDrain) (htl : trailerLength s.ckm = some tl) (hp : s.pend = .dup)
      (hn : (s.idx + 1#11).toNat = bsz s + tl) :
    ByteMove s b rest (duplicateAnswered { popped rest s with idx := s.idx + 1#11 })
  | lastDrainInvalid (tl : Nat) (h : s.st = .rxDrain) (htl : trailerLength s.ckm = some tl) (hp : s.pend = .invalid)
      (hn : (s.idx + 1#11).toNat = bsz s + tl) :
    ByteMove s b rest (invalidAnswered { popped rest s with idx := s.idx + 1#11 })
  | eotTaken (h : s.st = .rxNextWait) (hb : b = EOT) :
    ByteMove s b rest (endSession .rxOk (emit [ACK] (popped rest s)))

/-- What an expiry can do (R253's EXP column). -/
inductive ExpiryMove (s : State) : State → Prop
  | txHs (h : s.st = .txHsWait) : ExpiryMove s (endSession .txHsTimeout s)
  | txBlk (t : State) (h : s.st = .txBlkWait) (he : ErrorMove s t) : ExpiryMove s t
  | txEotLast (h : s.st = .txEotWait) (hn : s.rtry = s.params.nTxEot) : ExpiryMove s (endSession .txOkUnacked s)
  | txEot (h : s.st = .txEotWait) (hn : s.rtry ≠ s.params.nTxEot) :
    ExpiryMove s
      { s with rtry := s.rtry + 1#8, tx := s.tx ++ [EOT], deadline := some .txEot, expired := false }
  | rxHsLast (h : s.st = .rxHsWait) (hn : s.rtry + 1#8 = s.params.nRxHs) :
    ExpiryMove s
      { s with
        rtry := s.rtry + 1#8, tx := s.tx ++ [CAN, CAN], result := Cause.result .rxHsTimeout, st := .done }
  | rxHs (h : s.st = .rxHsWait) (hn : s.rtry + 1#8 ≠ s.params.nRxHs) :
    ExpiryMove s
      { s with
        rtry := s.rtry + 1#8, tx := s.tx ++ [requestByte s.ckm], deadline := some .rxHs, expired := false }
  | frame (h : s.st = .rxSeq ∨ s.st = .rxCmpl ∨ s.st = .rxData) : ExpiryMove s (invalidAnswered s)
  | drainDup (h : s.st = .rxDrain) (hp : s.pend = .dup) : ExpiryMove s (duplicateAnswered s)
  | drainInvalid (h : s.st = .rxDrain) (hp : s.pend = .invalid) : ExpiryMove s (invalidAnswered s)
  | rxNextLast (h : s.st = .rxNextWait) (hn : s.rtry + 1#8 = s.params.nRxNext) :
    ExpiryMove s
      { s with
        rtry := s.rtry + 1#8, tx := s.tx ++ [CAN, CAN], result := Cause.result .rxNoData, st := .done }
  | rxNext (h : s.st = .rxNextWait) (hn : s.rtry + 1#8 ≠ s.params.nRxNext) :
    ExpiryMove s
      { s with
        rtry := s.rtry + 1#8, tx := s.tx ++ [if s.last then ACK else NAK], deadline := some .rxNext,
        expired := false }

/-- What the engine can do (R252). -/
inductive EngineMove (s : State) : State → Prop
  | quiet (h : s.busy = false) : EngineMove s s
  | byte (b : Byte) (rest : List Byte) (t : State) (hrx : s.rx = b :: rest) (hm : ByteMove s b rest t) : EngineMove s t
  | expiry (t : State) (hrx : s.rx = []) (he : s.expired = true) (hm : ExpiryMove s t) : EngineMove s t
  | cancel (hb : s.busy = true) (hrx : s.rx = []) (he : s.expired = false) (hc : s.cxl = true) :
    EngineMove s (endSession .localCancel (cancelSignal s))
  | nothing (hb : s.busy = true) (hrx : s.rx = []) (he : s.expired = false) (hc : s.cxl = false) : EngineMove s s

/-- What the host's command can do (R280 to R283). -/
inductive CommandMove (s : State) : Instr → State → Prop
  | ignored (i : Instr) : CommandMove s i s
  | send (opt : Bool) (hb : s.busy = false) (hl : s.srcPort.length < 2 ^ s.params.wSrc) :
    CommandMove s (.send opt) (startSend opt s)
  | receive (opt : Bool) (hb : s.busy = false) : CommandMove s (.receive opt) (startReceive opt s)
  | cancel (opt : Bool) (hb : s.busy = true) : CommandMove s (.cancel opt) { s with cxl := true }

/-- One column of the event table, with its five rules outside a frame. -/
theorem eventColumn_move {b : Byte} {f1 f2 f3 f4 f5 : State → Result} {s t : State} {rest : List Byte}
    (hrx : s.rx = b :: rest) (hbusy : s.busy = true)
    (h1 : s.st = .txHsWait → f1 (popped rest s) = .next t → ByteMove s b rest t)
    (h2 : s.st = .txBlkWait → f2 (popped rest s) = .next t → ByteMove s b rest t)
    (h3 : s.st = .txEotWait → f3 (popped rest s) = .next t → ByteMove s b rest t)
    (h4 : s.st = .rxHsWait → f4 (popped rest s) = .next t → ByteMove s b rest t)
    (h5 : s.st = .rxNextWait → f5 (popped rest s) = .next t → ByteMove s b rest t)
    (h : eventColumn b f1 f2 f3 f4 f5 s = .next t) : ByteMove s b rest t := by
  unfold eventColumn at h
  simp only [takeByte_cons hrx] at h
  split at h <;> rename_i hst
  · exact h1 hst h
  · exact h2 hst h
  · exact h3 hst h
  · exact h4 hst h
  · cases h; exact .sequence hst
  · rw [complementByte_eq] at h; cases h; exact .complement hst
  · obtain ⟨tl, htl, hin, rfl⟩ := dataByte_next h
    split
    · exact .lastData tl hst htl hin ‹_›
    · exact .data tl hst htl hin ‹_›
  · obtain ⟨tl, htl, ⟨hn, hr⟩ | ⟨hn, rfl⟩⟩ := drainByte_next h
    · rcases respondPending_next hr with ⟨hp, rfl⟩ | ⟨hp, rfl⟩
      · exact .lastDrainDup tl hst htl hp hn
      · exact .lastDrainInvalid tl hst htl hp hn
    · exact .drain tl hst htl hn
  · exact h5 hst h
  · simp [State.busy, hst] at hbusy
  · simp [State.busy, hst] at hbusy
  · cases h

theorem discard_move {s t : State} {b : Byte} {rest : List Byte} (ho : outsideFrame s.st)
    (hb : b ∉ namedBytes s.st) (h : discardByte (popped rest s) = .next t) : ByteMove s b rest t := by
  cases h
  exact .discarded ho hb

theorem decodeByte_move {s t : State} {b : Byte} {rest : List Byte} (hbusy : s.busy = true) (hrx : s.rx = b :: rest)
    (h : exec (decodeByte b) s = .next t) : ByteMove s b rest t := by
  have disc : ∀ (st : FsmState), outsideFrame st → b ∉ namedBytes st → s.st = st →
      discardByte (popped rest s) = .next t → ByteMove s b rest t := by
    intro st ho hb hst
    subst hst
    exact discard_move ho hb
  unfold decodeByte at h
  split at h
  · rename_i hb; subst hb
    exact eventColumn_move hrx hbusy (disc _ trivial (by decide)) (disc _ trivial (by decide))
      (disc _ trivial (by decide))
      (fun hst h => by cases h; exact .frameStart false (.inl hst) rfl)
      (fun hst h => by cases h; exact .frameStart false (.inr hst) rfl) h
  split at h
  · rename_i hb; subst hb
    exact eventColumn_move hrx hbusy (disc _ trivial (by decide)) (disc _ trivial (by decide))
      (disc _ trivial (by decide))
      (fun hst h => by cases h; exact .frameStart true (.inl hst) rfl)
      (fun hst h => by cases h; exact .frameStart true (.inr hst) rfl) h
  split at h
  · rename_i hb; subst hb
    exact eventColumn_move hrx hbusy (disc _ trivial (by decide)) (disc _ trivial (by decide))
      (disc _ trivial (by decide)) (disc _ trivial (by decide))
      (fun hst h => by cases h; exact .eotTaken hst rfl) h
  split at h
  · rename_i hb; subst hb
    exact eventColumn_move hrx hbusy (disc _ trivial (by decide))
      (fun hst h => .acked t hst rfl (nextChunk_move h))
      (fun hst h => by cases h; exact .eotAcked hst rfl) (disc _ trivial (by decide)) (disc _ trivial (by decide)) h
  split at h
  · rename_i hb; subst hb
    exact eventColumn_move hrx hbusy
      (fun hst h => .request .sum8 t hst (.inl ⟨rfl, rfl⟩) (nextChunk_move h))
      (fun hst h => .naked t hst rfl (blockError_move h)) (disc _ trivial (by decide)) (disc _ trivial (by decide))
      (disc _ trivial (by decide)) h
  split at h
  · rename_i hb; subst hb
    exact eventColumn_move hrx hbusy (disc _ trivial (by decide))
      (fun hst h => by cases h; exact .blockCancelled hst rfl)
      (fun hst h => by cases h; exact .eotCancelled hst rfl) (disc _ trivial (by decide)) (disc _ trivial (by decide)) h
  split at h
  · rename_i hb; subst hb
    exact eventColumn_move hrx hbusy (disc _ trivial (by decide)) (disc _ trivial (by decide))
      (disc _ trivial (by decide)) (disc _ trivial (by decide))
      (disc _ trivial (by decide)) h
  split at h
  · rename_i hb; subst hb
    exact eventColumn_move hrx hbusy
      (fun hst h => .request .crc16 t hst (.inr ⟨rfl, rfl⟩) (nextChunk_move h))
      (disc _ trivial (by decide)) (disc _ trivial (by decide)) (disc _ trivial (by decide))
      (disc _ trivial (by decide)) h
  · have other : ∀ (st : FsmState), outsideFrame st → s.st = st → discardByte (popped rest s) = .next t →
        ByteMove s b rest t := by
      intro st ho
      exact disc st ho (by cases st <;> simp_all [namedBytes])
    exact eventColumn_move hrx hbusy (other _ trivial) (other _ trivial) (other _ trivial) (other _ trivial)
      (other _ trivial) h

theorem expire_move {s t : State} (hbusy : s.busy = true) (h : expire s = .next t) : ExpiryMove s t := by
  unfold expire at h
  split at h <;> rename_i hst
  · cases h; exact .txHs hst
  · exact .txBlk t hst (blockError_move h)
  · unfold txEotExpiry at h
    split at h
    · cases h; exact .txEotLast hst ‹_›
    · cases h; exact .txEot hst ‹_›
  · unfold rxHsExpiry at h
    dsimp only at h
    split at h
    · cases h; exact .rxHsLast hst ‹_›
    · cases h; exact .rxHs hst ‹_›
  · rw [frameExpiry, respondInvalid_eq] at h; cases h; exact .frame (.inl hst)
  · rw [frameExpiry, respondInvalid_eq] at h; cases h; exact .frame (.inr (.inl hst))
  · rw [frameExpiry, respondInvalid_eq] at h; cases h; exact .frame (.inr (.inr hst))
  · rcases respondPending_next h with ⟨hp, rfl⟩ | ⟨hp, rfl⟩
    · exact .drainDup hst hp
    · exact .drainInvalid hst hp
  · unfold rxNextExpiry at h
    dsimp only at h
    split at h
    · cases h; exact .rxNextLast hst ‹_›
    · cases h; exact .rxNext hst ‹_›
  · simp [State.busy, hst] at hbusy
  · simp [State.busy, hst] at hbusy
  · cases h

/-- The engine's turn, case by case. -/
theorem engineTurn_move {s t : State} (h : engineTurn s = .next t) : s.reservedField = none ∧ EngineMove s t := by
  unfold engineTurn at h
  split at h
  · cases h
  · rename_i hr
    refine ⟨hr, ?_⟩
    split at h
    · rename_i hb
      unfold poll at h
      split at h
      · rename_i b rest hrx
        exact .byte b rest t hrx (decodeByte_move hb hrx h)
      · rename_i hrx
        split at h
        · rename_i he
          exact .expiry t hrx he (expire_move hb h)
        · rename_i he
          have he' : s.expired = false := by simpa [timerExpired] using he
          split at h
          · cases h
            exact .cancel hb hrx he' ‹_›
          · rename_i hc
            cases h
            exact .nothing hb hrx he' (by simpa using hc)
    · rename_i hb
      cases h
      exact .quiet (by simpa using hb)

theorem command_move {s t : State} {w : CmdWord} (h : exec (decodeCommand w) s = .next t) :
    CommandMove s (decodeCommand w) t := by
  unfold decodeCommand at h ⊢
  split at h
  · rename_i h0; rw [if_pos h0]; cases h; exact .ignored _
  rename_i h0; rw [if_neg h0]
  split at h
  · rename_i h1; rw [if_pos h1]
    simp only [exec, execSend] at h
    split at h
    · cases h; exact .ignored _
    · split at h
      · cases h; exact .send _ (by simpa using ‹¬ s.busy = true›) ‹_›
      · cases h
  rename_i h1; rw [if_neg h1]
  split at h
  · rename_i h2; rw [if_pos h2]
    simp only [exec, execReceive] at h
    split at h
    · cases h; exact .ignored _
    · cases h; exact .receive _ (by simpa using ‹¬ s.busy = true›)
  · rename_i h2; rw [if_neg h2]
    simp only [exec, execCancel] at h
    split at h
    · cases h; exact .cancel _ ‹_›
    · cases h; exact .ignored _

/-! What no transition of the engine touches. -/

theorem ChunkMove.kept {s t : State} (h : ChunkMove s t) : t.rx = s.rx ∧ t.sched = s.sched := by
  cases h <;> exact ⟨rfl, rfl⟩

theorem ErrorMove.kept {s t : State} (h : ErrorMove s t) : t.rx = s.rx ∧ t.sched = s.sched := by
  cases h <;> exact ⟨rfl, rfl⟩

/-- A byte's rule takes that byte and no other, and no rule reads or writes the schedule. -/
theorem ByteMove.kept {s t : State} {b : Byte} {rest : List Byte} (h : ByteMove s b rest t) :
    t.rx = rest ∧ t.sched = s.sched := by
  cases h with
  | request m t h hb hc => exact hc.kept
  | acked t h hb hc => exact hc.kept
  | naked t h hb hc => exact hc.kept
  | complement h => exact ⟨complemented_rx _, complemented_sched _⟩
  | lastData tl h htl hin hn => exact ⟨verified_rx _ _, verified_sched _ _⟩
  | lastDrainInvalid tl h htl hp hn => exact ⟨invalidAnswered_rx _, invalidAnswered_sched _⟩
  | discarded | blockCancelled | eotAcked | eotCancelled | frameStart | sequence | data | drain | lastDrainDup |
    eotTaken => exact ⟨rfl, rfl⟩

/-- An expiry takes no byte. -/
theorem ExpiryMove.kept {s t : State} (h : ExpiryMove s t) : t.rx = s.rx ∧ t.sched = s.sched := by
  cases h with
  | txBlk t h he => exact he.kept
  | frame h => exact ⟨invalidAnswered_rx s, invalidAnswered_sched s⟩
  | drainInvalid h hp => exact ⟨invalidAnswered_rx s, invalidAnswered_sched s⟩
  | txHs | txEotLast | txEot | rxHsLast | rxHs | drainDup | rxNextLast | rxNext => exact ⟨rfl, rfl⟩

theorem EngineMove.sched_eq {s t : State} (h : EngineMove s t) : t.sched = s.sched := by
  cases h with
  | byte b rest t hrx hm => exact hm.kept.2
  | expiry t hrx he hm => exact hm.kept.2
  | quiet | cancel | nothing => rfl

theorem CommandMove.sched_eq {s t : State} {i : Instr} (h : CommandMove s i t) : t.sched = s.sched := by
  cases h <;> rfl

/-- Every transition of the machine: the next turn of the schedule, run on the state without it. -/
inductive Move (s : State) : State → Prop
  | engine (t : State) (hs : s.sched.next = .engine) (hr : s.reservedField = none)
      (hm : EngineMove { s with sched := s.sched.rest } t) : Move s t
  | host (w : CmdWord) (i : Instr) (t : State) (hs : s.sched.next = .host w) (hr : s.reservedField = none)
      (hi : decodeCommand w = i) (hm : CommandMove { s with sched := s.sched.rest } i t) : Move s t
  | peer (b : Byte) (hs : s.sched.next = .peer b) : Move s (arrive b { s with sched := s.sched.rest })
  | timer (hs : s.sched.next = .timer) : Move s (elapse { s with sched := s.sched.rest })
  | bindSrc (bs : List Byte) (hs : s.sched.next = .bindSrc bs) :
    Move s { s with sched := s.sched.rest, srcPort := bs }
  | reset (hs : s.sched.next = .reset) : Move s (hardwareReset { s with sched := s.sched.rest })

/-- What a step can do, said once. -/
theorem step_move {s t : State} (h : step s = .next t) : Move s t := by
  unfold step scheduledTurn at h
  cases hs : s.sched.next with
  | engine =>
    rw [hs] at h
    obtain ⟨hr, hm⟩ := engineTurn_move h
    exact .engine t hs hr hm
  | host w =>
    rw [hs] at h
    simp only [runTurn, hostTurn] at h
    split at h
    · cases h
    · rename_i hr
      exact .host w _ t hs hr rfl (command_move h)
  | peer b => rw [hs] at h; cases h; exact .peer b hs
  | timer => rw [hs] at h; cases h; exact .timer hs
  | bindSrc bs => rw [hs] at h; cases h; exact .bindSrc bs hs
  | reset => rw [hs] at h; cases h; exact .reset hs

/-- A step takes exactly one turn off the schedule. -/
theorem step_sched {s t : State} (h : step s = .next t) : t.sched = s.sched.rest := by
  cases step_move h with
  | engine t hs hr hm => exact hm.sched_eq
  | host w i t hs hr hi hm => exact hm.sched_eq
  | timer hs => unfold elapse; split <;> rfl
  | peer | bindSrc | reset => rfl

end Sys2Proof.Laws
end

