-- ==== Sys2Proof/Laws/PerInstr.lean ====
section
/-!
SUPPORT. What holds of every instruction as syntax, one lemma per constructor: its encoding is a word of the port it
arrives on and fits the port's width (spec/30_encoding.md R100, R106; spec/44_host_operations.md R284).
-/

namespace Sys2Proof.Laws

/-- The encoding of an instruction is a word of its own port, in the port's width. -/
def EncodeFits.Statement (i : Instr) : Prop :=
  (encode i).port = i.port ∧ (encode i).number < 2 ^ i.port.width

theorem EncodeFits.soh : EncodeFits.Statement .soh := ⟨rfl, by decide⟩
theorem EncodeFits.stx : EncodeFits.Statement .stx := ⟨rfl, by decide⟩
theorem EncodeFits.eot : EncodeFits.Statement .eot := ⟨rfl, by decide⟩
theorem EncodeFits.ack : EncodeFits.Statement .ack := ⟨rfl, by decide⟩
theorem EncodeFits.nak : EncodeFits.Statement .nak := ⟨rfl, by decide⟩
theorem EncodeFits.can : EncodeFits.Statement .can := ⟨rfl, by decide⟩
theorem EncodeFits.cpmeof : EncodeFits.Statement .cpmeof := ⟨rfl, by decide⟩
theorem EncodeFits.crq : EncodeFits.Statement .crq := ⟨rfl, by decide⟩
theorem EncodeFits.other (b : Byte) : EncodeFits.Statement (.other b) := ⟨rfl, b.isLt⟩
theorem EncodeFits.nop (opt : Bool) : EncodeFits.Statement (.nop opt) := ⟨rfl, (cmdWord opt 0b00#2).isLt⟩
theorem EncodeFits.send (opt : Bool) : EncodeFits.Statement (.send opt) := ⟨rfl, (cmdWord opt 0b01#2).isLt⟩
theorem EncodeFits.receive (opt : Bool) : EncodeFits.Statement (.receive opt) := ⟨rfl, (cmdWord opt 0b10#2).isLt⟩
theorem EncodeFits.cancel (opt : Bool) : EncodeFits.Statement (.cancel opt) := ⟨rfl, (cmdWord opt 0b11#2).isLt⟩

end Sys2Proof.Laws
end

