-- ==== Sys2Proof/Laws/Schedule.lean ====
section
/-!
SUPPORT. What the schedule gives and what a step does with it, so that no proof unfolds `Schedule` or `step`: listed
turns come first and in order, the endless rest follows, and the turns ahead split at any point.
-/

namespace Sys2Proof.Laws

open Sys2Proof Sys2Proof.Machine Sys2Proof.Config

@[simp] theorem next_listed (t : Turn) (ts : List Turn) (o : Onward) :
    Schedule.next { turns := t :: ts, onward := o } = t := rfl

@[simp] theorem rest_listed (t : Turn) (ts : List Turn) (o : Onward) :
    Schedule.rest { turns := t :: ts, onward := o } = { turns := ts, onward := o } := rfl

@[simp] theorem next_repeating (t : Turn) (ts : List Turn) :
    Schedule.next { turns := [], onward := .repeating t ts } = t := rfl

@[simp] theorem rest_repeating (t : Turn) (ts : List Turn) :
    Schedule.rest { turns := [], onward := .repeating t ts } = { turns := ts, onward := .repeating t ts } := rfl

@[simp] theorem next_free (n k : Nat) : Schedule.next { turns := [], onward := .free n k } = endlessTurn n k := rfl

@[simp] theorem rest_free (n k : Nat) :
    Schedule.rest { turns := [], onward := .free n k } = { turns := [], onward := .free n (k + 1) } := rfl

@[simp] theorem next_cons (t : Turn) (c : Schedule) : (Schedule.cons t c).next = t := rfl

@[simp] theorem rest_cons (t : Turn) (c : Schedule) : (Schedule.cons t c).rest = c := rfl

@[simp] theorem ahead_zero (c : Schedule) : c.ahead 0 = [] := rfl

@[simp] theorem ahead_succ (n : Nat) (c : Schedule) : c.ahead (n + 1) = c.next :: c.rest.ahead n := rfl

@[simp] theorem drop_zero (c : Schedule) : c.drop 0 = c := rfl

@[simp] theorem drop_succ (n : Nat) (c : Schedule) : c.drop (n + 1) = c.rest.drop n := rfl

@[simp] theorem turn_zero (c : Schedule) : c.turn 0 = c.next := rfl

@[simp] theorem turn_succ (n : Nat) (c : Schedule) : c.turn (n + 1) = c.rest.turn n := rfl

@[simp] theorem ahead_length (n : Nat) (c : Schedule) : (c.ahead n).length = n := by
  induction n generalizing c with
  | zero => rfl
  | succ n ih => simp [ih]

theorem drop_add (m n : Nat) (c : Schedule) : c.drop (m + n) = (c.drop m).drop n := by
  induction m generalizing c with
  | zero => simp
  | succ m ih => rw [Nat.succ_add]; exact ih c.rest

theorem turn_add (m n : Nat) (c : Schedule) : c.turn (m + n) = (c.drop m).turn n := by
  simp only [Schedule.turn, drop_add]

theorem ahead_add (m n : Nat) (c : Schedule) : c.ahead (m + n) = c.ahead m ++ (c.drop m).ahead n := by
  induction m generalizing c with
  | zero => simp
  | succ m ih => rw [Nat.succ_add]; exact congrArg (c.next :: ·) (ih c.rest)

/-- Turns known ahead in two parts are known part by part. -/
theorem ahead_append {m n : Nat} {c : Schedule} {l k : List Turn} (h : c.ahead (m + n) = l ++ k) (hl : l.length = m) :
    c.ahead m = l ∧ (c.drop m).ahead n = k := by
  rw [ahead_add] at h
  exact List.append_inj h (by simp [hl])

/-- The listed turns come first, in order. -/
theorem ahead_turns (ts : List Turn) (o : Onward) : Schedule.ahead ts.length { turns := ts, onward := o } = ts := by
  induction ts with
  | nil => rfl
  | cons t ts ih => exact congrArg (t :: ·) ih

theorem drop_turns (ts : List Turn) (o : Onward) :
    Schedule.drop ts.length { turns := ts, onward := o } = { turns := [], onward := o } := by
  induction ts with
  | nil => rfl
  | cons t ts ih => exact ih

/-- A period that repeats is back at its start after a whole number of rounds. -/
theorem drop_rounds (t : Turn) (ts : List Turn) (k : Nat) :
    Schedule.drop (k * (ts.length + 1)) { turns := [], onward := .repeating t ts } =
      { turns := [], onward := .repeating t ts } := by
  induction k with
  | zero => rw [Nat.zero_mul]; rfl
  | succ k ih =>
    rw [Nat.succ_mul, drop_add, ih]
    exact drop_turns ts _

theorem ahead_rounds (t : Turn) (ts : List Turn) (k : Nat) :
    Schedule.ahead (k * (ts.length + 1)) { turns := [], onward := .repeating t ts } =
      (List.replicate k (t :: ts)).flatten := by
  induction k with
  | zero => rw [Nat.zero_mul]; rfl
  | succ k ih =>
    rw [Nat.succ_mul, Nat.add_comm, ahead_add, List.replicate_succ, List.flatten_cons]
    have h : Schedule.drop (ts.length + 1) { turns := [], onward := .repeating t ts } = _ := drop_turns ts _
    rw [h, ih]
    exact congrArg (t :: · ++ _) (ahead_turns ts _)

/-- Where one turn repeats, every turn ahead is that one, and the schedule never changes. -/
theorem ahead_same (t : Turn) (n : Nat) :
    Schedule.ahead n { turns := [], onward := .repeating t [] } = List.replicate n t := by
  induction n with
  | zero => rfl
  | succ n ih => exact congrArg (t :: ·) ih

theorem drop_same (t : Turn) (n : Nat) :
    Schedule.drop n { turns := [], onward := .repeating t [] } = { turns := [], onward := .repeating t [] } := by
  induction n with
  | zero => rfl
  | succ n ih => exact ih

/-! What a step does with its turn. -/

theorem step_engine {s : State} (h : s.sched.next = .engine) :
    step s = engineTurn { s with sched := s.sched.rest } := by
  simp only [step, scheduledTurn, h, runTurn]

theorem step_host {s : State} {w : CmdWord} (h : s.sched.next = .host w) :
    step s = hostTurn w { s with sched := s.sched.rest } := by
  simp only [step, scheduledTurn, h, runTurn]

theorem step_peer {s : State} {b : Byte} (h : s.sched.next = .peer b) :
    step s = .next { s with sched := s.sched.rest, rx := s.rx ++ [b] } := by
  simp only [step, scheduledTurn, h, runTurn, arrive]

theorem step_timer {s : State} (h : s.sched.next = .timer) :
    step s = .next (elapse { s with sched := s.sched.rest }) := by
  simp only [step, scheduledTurn, h, runTurn]

/-- An engine turn in a wait state is a poll. -/
theorem step_poll {s : State} (h : s.sched.next = .engine) (hr : s.reservedField = none) (hb : s.busy = true) :
    step s = poll { s with sched := s.sched.rest } := by
  have h1 : { s with sched := s.sched.rest }.reservedField = none := hr
  have h2 : { s with sched := s.sched.rest }.busy = true := hb
  rw [step_engine h]
  unfold engineTurn
  simp only [h1, h2, if_true]

/-- An engine turn in IDLE or DONE changes nothing. -/
theorem step_quiet {s : State} (h : s.sched.next = .engine) (hr : s.reservedField = none) (hb : s.busy = false) :
    step s = .next { s with sched := s.sched.rest } := by
  have h1 : { s with sched := s.sched.rest }.reservedField = none := hr
  have h2 : { s with sched := s.sched.rest }.busy = false := hb
  rw [step_engine h]
  unfold engineTurn
  simp only [h1, h2, Bool.false_eq_true, if_false]

/-- A poll that finds a byte. -/
theorem step_byte {s : State} {b : Byte} {rest : List Byte} (h : s.sched.next = .engine) (hr : s.reservedField = none)
    (hb : s.busy = true) (hx : s.rx = b :: rest) :
    step s = exec (decodeByte b) { s with sched := s.sched.rest } := by
  rw [step_poll h hr hb]
  unfold poll
  simp only [hx]

/-- A poll that finds no byte and an expired deadline. -/
theorem step_expiry {s : State} (h : s.sched.next = .engine) (hr : s.reservedField = none) (hb : s.busy = true)
    (hx : s.rx = []) (he : s.expired = true) : step s = expire { s with sched := s.sched.rest } := by
  rw [step_poll h hr hb]
  unfold poll
  simp only [hx, timerExpired, he, if_true]

/-- A poll that finds neither, with a cancellation pending. -/
theorem step_cancel {s : State} (h : s.sched.next = .engine) (hr : s.reservedField = none) (hb : s.busy = true)
    (hx : s.rx = []) (he : s.expired = false) (hc : s.cxl = true) :
    step s = localCancel { s with sched := s.sched.rest } := by
  rw [step_poll h hr hb]
  unfold poll
  simp only [hx, timerExpired, he, hc, Bool.false_eq_true, if_false, if_true]

/-- A poll that finds nothing. -/
theorem step_nothing {s : State} (h : s.sched.next = .engine) (hr : s.reservedField = none) (hb : s.busy = true)
    (hx : s.rx = []) (he : s.expired = false) (hc : s.cxl = false) :
    step s = .next { s with sched := s.sched.rest } := by
  rw [step_poll h hr hb]
  unfold poll
  simp only [hx, timerExpired, he, hc, Bool.false_eq_true, if_false]

/-- A run goes through any of its intermediate states. -/
theorem run_add (m n : Nat) (s : State) :
    Host.Core.run core (m + n) s =
      match Host.Core.run core m s with
      | .next t => Host.Core.run core n t
      | .fault f => .fault f
      | .refused r => .refused r := by
  induction m generalizing s with
  | zero => rw [Nat.zero_add]; rfl
  | succ m ih =>
    rw [Nat.succ_add]
    simp only [Host.Core.run]
    cases hstep : core.step s with
    | next t => simp only; exact ih t
    | fault f => rfl
    | refused r => rfl

theorem run_step {n : Nat} {s t : State} (h : step s = .next t) :
    Host.Core.run core (n + 1) s = Host.Core.run core n t := by
  have h' : core.step s = .next t := h
  simp only [Host.Core.run, h']

theorem run_trans {m n : Nat} {s t : State} (h : Host.Core.run core m s = .next t) :
    Host.Core.run core (m + n) s = Host.Core.run core n t := by
  rw [run_add, h]

end Sys2Proof.Laws
end

