-- ==== Sys2Proof/Tests/Slice0.lean ====
section
/-!
SUPPORT. The model's own tests: the well-formedness check, a written-out word for every constructor, at most two
single steps per instruction with the results spec/95_test_vectors.md prints, and for every statement of
Certificates/Slice0/Obligations.lean with hypotheses, concrete data that meets them, clause by clause.
-/

namespace Sys2Proof.Tests

open Sys2Proof Sys2Proof.Machine Sys2Proof.Config Sys2Proof.Safety

/-! ## Well-formedness -/

theorem test_wf_other_soh_refused : Instr.wf (.other 0x01#8) = false := by decide
theorem test_wf_other_stx_refused : Instr.wf (.other 0x02#8) = false := by decide
theorem test_wf_other_eot_refused : Instr.wf (.other 0x04#8) = false := by decide
theorem test_wf_other_ack_refused : Instr.wf (.other 0x06#8) = false := by decide
theorem test_wf_other_nak_refused : Instr.wf (.other 0x15#8) = false := by decide
theorem test_wf_other_can_refused : Instr.wf (.other 0x18#8) = false := by decide
theorem test_wf_other_cpmeof_refused : Instr.wf (.other 0x1A#8) = false := by decide
theorem test_wf_other_crq_refused : Instr.wf (.other 0x43#8) = false := by decide
theorem test_wf_other_accepted : Instr.wf (.other 0x00#8) = true ∧ Instr.wf (.other 0xFF#8) = true := by decide

/-! ## Decoding: words from the "bits 7..0" column of R100 and the fields of R106 -/

theorem test_decode_soh : decode (.byte 0b00000001#8) = .soh := by decide
theorem test_decode_stx : decode (.byte 0b00000010#8) = .stx := by decide
theorem test_decode_eot : decode (.byte 0b00000100#8) = .eot := by decide
theorem test_decode_ack : decode (.byte 0b00000110#8) = .ack := by decide
theorem test_decode_nak : decode (.byte 0b00010101#8) = .nak := by decide
theorem test_decode_can : decode (.byte 0b00011000#8) = .can := by decide
theorem test_decode_cpmeof : decode (.byte 0b00011010#8) = .cpmeof := by decide
theorem test_decode_crq : decode (.byte 0b01000011#8) = .crq := by decide
theorem test_decode_other : decode (.byte 0b10000001#8) = .other 0b10000001#8 := by decide
theorem test_decode_nop : decode (.cmd 0b000#3) = .nop false ∧ decode (.cmd 0b100#3) = .nop true := by decide
theorem test_decode_send : decode (.cmd 0b001#3) = .send false ∧ decode (.cmd 0b101#3) = .send true := by decide
theorem test_decode_receive : decode (.cmd 0b010#3) = .receive false ∧ decode (.cmd 0b110#3) = .receive true := by
  decide
theorem test_decode_cancel : decode (.cmd 0b011#3) = .cancel false ∧ decode (.cmd 0b111#3) = .cancel true := by
  decide

theorem test_decode_too_wide :
    decodeNumber .wire 256 = .error .widerThanByte ∧ decodeNumber .command 8 = .error .widerThanCommand := by decide

/-- The numbers of the opcode table, most specific row first (entry 13). -/
theorem test_table_words :
    decodeTableWord 8 0x43 = some .crq ∧ decodeTableWord 8 0x63 = some (.other 0x63#8) ∧
    decodeTableWord 3 0b101 = some (.send true) ∧ decodeTableWord 8 0x05 = some (.send true) ∧
    decodeTableWord 3 8 = none ∧ decodeTableWord 8 256 = none := by decide

/-! ## Checksums (R112, R113) -/

/-- The check value of R113: the ASCII bytes "123456789" give 0x31C3, sent 0x31 then 0xC3. -/
theorem test_crc_check_value :
    crc16Trailer [0x31, 0x32, 0x33, 0x34, 0x35, 0x36, 0x37, 0x38, 0x39] = [0x31#8, 0xC3#8] := by decide +kernel

/-- R112: 128 bytes of 0xFF give 0x80, the bytes 0x00 to 0x7F give 0xC0. -/
theorem test_sum8 :
    sum8 (List.replicate 128 0xFF#8) = 0x80#8 ∧
    sum8 ((List.range 128).map (BitVec.ofNat 8)) = 0xC0#8 := by decide +kernel

/-! ## Small states and single steps -/

/-- What the test looks at in the next state; none where the step stops. -/
def after {α : Type} (f : State → α) : Result → Option α
  | .next s => some (f s)
  | .fault _ => none
  | .refused _ => none

/-- The listed turns, and after them the engine's only. -/
def upcoming (ts : List Turn) : Schedule := { turns := ts, onward := .repeating .engine [] }

/-- A sender in a wait state, SUM8, with unread input. -/
def sending (st : FsmState) (rx : List Byte) : State :=
  { State.reset with st := st, ckm := .sum8, rx := rx }

/-- A receiver in a wait state, SUM8, with unread input. -/
def receiving (st : FsmState) (rx : List Byte) : State :=
  { State.reset with st := st, role := .receiver, ckm := .sum8, rx := rx }

/-- V-RXHS-1. -/
theorem test_soh_begins_frame :
    after (fun t => (t.st, t.blk1k, t.deadline)) (step (receiving .rxHsWait [0x01])) =
      some (.rxSeq, false, some .rxBlk) := by decide

/-- V-TX-7: SOH is discarded while a response is awaited. -/
theorem test_soh_discarded_by_sender :
    after (fun t => (t.st, t.rx, t.tx)) (step (sending .txBlkWait [0x01, 0x06])) = some (.txBlkWait, [0x06], []) := by
  decide

/-- V-RXHS-2. -/
theorem test_stx_begins_long_frame :
    after (fun t => (t.st, t.blk1k)) (step (receiving .rxNextWait [0x02])) = some (.rxSeq, true) := by decide

/-- V-RX-1: inside a frame any byte is a field byte. -/
theorem test_stx_is_sequence_byte :
    after (fun t => (t.st, t.rseq)) (step (receiving .rxSeq [0x02])) = some (.rxCmpl, 0x02#8) := by decide

/-- V-RX-14. -/
theorem test_eot_ends_receive :
    after (fun t => (t.st, t.result, t.tx)) (step (receiving .rxNextWait [0x04])) =
      some (.done, 0x13#8, [0x06#8]) := by decide

/-- V-RXHS-3: EOT is discarded in the handshake. -/
theorem test_eot_discarded_in_handshake :
    after (fun t => (t.st, t.rx, t.tx)) (step (receiving .rxHsWait [0x04])) = some (.rxHsWait, [], []) := by decide

/-- V-TX-9. -/
theorem test_ack_ends_send :
    after (fun t => (t.st, t.result, t.tx)) (step (sending .txEotWait [0x06])) = some (.done, 0x11#8, []) := by decide

/-- V-TX-2, V-TX-8: the last ACK advances SEQ from 0xFF to 0x00 and starts the EOT exchange. -/
theorem test_ack_wraps_and_starts_eot :
    after (fun t => (t.st, t.seq, t.rtry, t.tx)) (step { sending .txBlkWait [0x06] with seq := 0xFF, err := 4 }) =
      some (.txEotWait, 0x00#8, 1#8, [0x04#8]) := by decide

/-- V-TX-4. -/
theorem test_nak_tenth_error :
    after (fun t => (t.st, t.err, t.result, t.tx)) (step { sending .txBlkWait [0x15] with err := 9 }) =
      some (.done, 10#8, 0x56#8, [0x18#8, 0x18#8]) := by decide

/-- V-TXHS-1: NAK selects the sum; the source "A" goes out in one padded frame of 132 bytes. -/
theorem test_nak_sends_first_block :
    after (fun t => (t.ckm, t.sptr, t.tx.length, t.tx.take 5, t.tx.getLast?))
        (step { sending .txHsWait [0x15] with ckm := .none, src := [0x41] }) =
      some (.sum8, 1, 132, [0x01#8, 0x01#8, 0xFE#8, 0x41#8, 0x1A#8], some 0x27#8) := by decide +kernel

/-- V-TX-6. -/
theorem test_can_aborts_send :
    after (fun t => (t.st, t.result, t.tx)) (step (sending .txBlkWait [0x18])) = some (.done, 0x4A#8, []) := by decide

/-- V-RX-18: the receiver discards CAN. -/
theorem test_can_discarded_by_receiver :
    after (fun t => (t.st, t.rx)) (step (receiving .rxNextWait [0x18])) = some (.rxNextWait, []) := by decide

/-- R101: CPMEOF outside a frame is of the class OTHER. -/
theorem test_cpmeof_discarded :
    after (fun t => (t.st, t.rx, t.ckm)) (step { sending .txHsWait [0x1A] with ckm := .none }) =
      some (.txHsWait, [], .none) := by decide

/-- R208: inside a frame CPMEOF is a payload byte. -/
theorem test_cpmeof_is_data :
    after (fun t => (t.st, t.fb, t.idx)) (step { receiving .rxData [0x1A] with idx := 127 }) =
      some (.rxData, [(127, 0x1A#8)], 128#11) := by decide

/-- V-TXHS-2, V-TXHS-5: 'C' selects the CRC; an empty source goes straight to EOT. -/
theorem test_crq_selects_crc :
    after (fun t => (t.st, t.ckm, t.tx)) (step { sending .txHsWait [0x43] with ckm := .none }) =
      some (.txEotWait, .crc16, [0x04#8]) := by decide

/-- V-TX-7. -/
theorem test_crq_discarded_in_block_wait :
    after (fun t => (t.st, t.rx, t.err)) (step (sending .txBlkWait [0x43])) = some (.txBlkWait, [], 0#8) := by decide

/-- V-RX-4: sequence 0x07 with SEQ = 0x03 is fatal whatever the complement. -/
theorem test_other_as_complement_sync_lost :
    after (fun t => (t.st, t.result, t.tx)) (step { receiving .rxCmpl [0xF8] with seq := 3, rseq := 7 }) =
      some (.done, 0x39#8, [0x18#8, 0x18#8]) := by decide

/-- R208's example: the last trailer byte 0x00 of a frame of zeros completes and verifies it. -/
theorem test_other_completes_frame :
    after (fun t => (t.st, t.seq, t.dst.length, t.tx)) (step { receiving .rxData [0x00] with idx := 128, err := 3 }) =
      some (.rxNextWait, 0x02#8, 128, [0x06#8]) := by decide +kernel

/-- V-HOST-5. -/
theorem test_nop_ignored : step { State.reset with sched := upcoming [.host 0b100#3] } = .next State.reset := rfl

/-- V-HOST-2. -/
theorem test_send_starts :
    after (fun t => (t.st, t.blk1k, t.deadline, t.tx)) (step { State.reset with sched := upcoming [.host 0b101#3] }) =
      some (.txHsWait, true, some .txHs, []) := by decide

/-- U12: a source of two bytes does not fit a pointer of one bit. -/
theorem test_send_refused :
    step { State.reset with
        params := { Params.default with wSrc := 1 }, srcPort := [0, 0], sched := upcoming [.host 0b001#3] } =
      .refused .sourceTooLong := rfl

/-- V-HOST-4. -/
theorem test_receive_starts :
    after (fun t => (t.st, t.role, t.ckm, t.deadline, t.tx))
        (step { State.reset with sched := upcoming [.host 0b110#3] }) =
      some (.rxHsWait, .receiver, .crc16, some .rxHs, [0x43#8]) := by decide

/-- V-HOST-6. -/
theorem test_receive_ignored_while_busy :
    step { receiving .rxData [] with sched := upcoming [.host 0b010#3] } = .next (receiving .rxData []) := rfl

/-- V-TX-13: the latch, then the cancel rule. -/
theorem test_cancel_latched :
    after (fun t => (t.st, t.cxl, t.tx)) (step { sending .txBlkWait [] with sched := upcoming [.host 0b111#3] }) =
      some (.txBlkWait, true, []) := by decide
theorem test_cancel_taken :
    after (fun t => (t.st, t.result, t.tx)) (step { sending .txBlkWait [] with cxl := true }) =
      some (.done, 0x6C#8, [0x18#8, 0x18#8]) := by decide

/-- V-IO-1: a byte is taken before an expiry. -/
theorem test_byte_before_expiry :
    after (fun t => (t.result, t.err)) (step { sending .txEotWait [0x06] with expired := true, cxl := true }) =
      some (0x11#8, 0#8) := by decide

/-- V-RX-17. -/
theorem test_tenth_next_expiry :
    after (fun t => (t.st, t.rtry, t.result, t.tx))
        (step { receiving .rxNextWait [] with rtry := 9, expired := true }) =
      some (.done, 10#8, 0x58#8, [0x18#8, 0x18#8]) := by decide

/-- V-RST-1: reset in the middle of a receive; the unread byte stays. -/
theorem test_reset_while_busy :
    after (fun t => (t.st, t.seq, t.result, t.rx, t.tx))
        (step { receiving .rxData [0x05] with seq := 9, idx := 3, sched := upcoming [.reset] }) =
      some (.idle, 0x01#8, 0x00#8, [0x05#8], []) := by decide

/-- The placed instruction is the one the next step runs (entry 14). -/
theorem test_placed_command_runs :
    after (fun t => (t.st, t.sched)) (step (State.reset.withFetchWord 3 0b010)) =
      some (.rxHsWait, State.reset.sched) := by decide
theorem test_placed_byte_runs :
    after (fun t => (t.st, t.rx)) (step (State.reset.withFetchWord 8 0x01)) = some (.rxSeq, []) := by decide

/-! ## Witnesses: data that meets the hypotheses of each statement, clause by clause -/

theorem witness_DecodeEncodeGivesBack :
    Instr.wf .cpmeof = true ∧ Instr.wf (.other 0x00#8) = true ∧ Instr.wf (.other 0xFF#8) = true ∧
    Instr.wf (.cancel true) = true := by decide

theorem witness_FrameLayout_short_sum :
    (List.replicate 128 0x00#8).length = (if false = true then 1024 else 128) ∧
    ckAppend .standard .sum8 (List.replicate 128 0x00#8) = some [sum8 (List.replicate 128 0x00#8)] := ⟨rfl, rfl⟩
theorem witness_FrameLayout_long_crc :
    (List.replicate 1024 0xFF#8).length = (if true = true then 1024 else 128) ∧
    ckAppend .standard .crc16 (List.replicate 1024 0xFF#8) = some (crc16Trailer (List.replicate 1024 0xFF#8)) :=
  ⟨List.length_replicate, rfl⟩
theorem witness_FrameLayout_short_crc_other_unit :
    (List.replicate 128 0x00#8).length = (if false = true then 1024 else 128) ∧
    ∃ tr, ckAppend (.other 7) .crc16 (List.replicate 128 0x00#8) = some tr := ⟨rfl, _, rfl⟩
theorem witness_FrameLayout_long_sum :
    (List.replicate 1024 0x01#8).length = (if true = true then 1024 else 128) ∧
    ∃ tr, ckAppend .standard .sum8 (List.replicate 1024 0x01#8) = some tr := ⟨List.length_replicate, _, rfl⟩

theorem witness_StepRunsDecodedInstruction_silent :
    (sending .txBlkWait [0x06]).reservedField = none ∧ (sending .txBlkWait [0x06]).busy = true ∧
    (sending .txBlkWait [0x06]).rx = 0x06#8 :: [] ∧ (sending .txBlkWait [0x06]).sched.next = .engine := by decide
theorem witness_StepRunsDecodedInstruction_engine :
    (receiving .rxDrain [0x00, 0x01]).reservedField = none ∧ (receiving .rxDrain [0x00, 0x01]).busy = true ∧
    { receiving .rxDrain [0x00, 0x01] with sched := upcoming [.engine, .reset] }.rx = 0x00#8 :: [0x01#8] ∧
    { receiving .rxDrain [0x00, 0x01] with sched := upcoming [.engine, .reset] }.sched.next = .engine := by decide
theorem witness_StepRunsDecodedInstruction_host :
    { State.reset with sched := upcoming [.host 0b111#3] }.reservedField = none ∧
    { State.reset with sched := upcoming [.host 0b111#3] }.sched.next = .host 0b111#3 := by decide

theorem witness_OtherAgentsTurns_peer :
    { State.reset with sched := upcoming [.peer 0xFF#8] }.sched.next = .peer 0xFF#8 := rfl
theorem witness_OtherAgentsTurns_timer :
    { State.reset with deadline := some .rxBlk, sched := upcoming [.timer] }.deadline = some .rxBlk ∧
    { State.reset with deadline := some .rxBlk, sched := upcoming [.timer] }.sched.next = .timer := by decide
theorem witness_OtherAgentsTurns_no_deadline :
    State.reset.deadline = none ∧ { State.reset with sched := upcoming [.timer] }.sched.next = .timer := by decide
theorem witness_OtherAgentsTurns_bindSrc :
    { State.reset with sched := upcoming [.bindSrc [1]] }.sched.next = .bindSrc [1] := rfl

/-- The premises shared by the statements about a poll that finds neither byte nor expiry. -/
theorem witness_CancellationAtSuspensionPoint_pending :
    { sending .txHsWait [] with cxl := true }.reservedField = none ∧
    { sending .txHsWait [] with cxl := true }.busy = true ∧ { sending .txHsWait [] with cxl := true }.rx = [] ∧
    { sending .txHsWait [] with cxl := true }.expired = false ∧
    { sending .txHsWait [] with cxl := true }.sched.next = .engine ∧
    { sending .txHsWait [] with cxl := true }.cxl = true := by decide
theorem witness_CancellationAtSuspensionPoint_none :
    (receiving .rxNextWait []).reservedField = none ∧ (receiving .rxNextWait []).busy = true ∧
    (receiving .rxNextWait []).rx = [] ∧ (receiving .rxNextWait []).expired = false ∧
    (receiving .rxNextWait []).sched.next = .engine ∧ (receiving .rxNextWait []).cxl = false := by decide

theorem witness_IdleAndDoneAreNotPolled_idle :
    State.reset.st = .idle ∧ State.reset.reservedField = none ∧ State.reset.sched.next = .engine ∧
    Instr.port .soh = .wire := by decide
theorem witness_IdleAndDoneAreNotPolled_done :
    (receiving .done [0x01]).st = .done ∧ (receiving .done [0x01]).reservedField = none ∧
    (receiving .done [0x01]).sched.next = .engine ∧ Instr.port (.other 0xFF) = .wire := by decide

theorem witness_IgnoredCommandsAndCancel :
    (receiving .rxData []).busy = true ∧ State.reset.busy = false ∧ (receiving .done []).busy = false := by decide

theorem witness_SendStartsSession_busy : (sending .txEotWait []).busy = true := by decide
theorem witness_SendStartsSession_largest_source :
    { State.reset with params := { Params.default with wSrc := 1 }, srcPort := [0x41] }.busy = false ∧
    { State.reset with params := { Params.default with wSrc := 1 }, srcPort := [0x41] }.srcPort.length < 2 ^ 1 := by
  decide
theorem witness_SendRefusedWhenSourceTooLong :
    { State.reset with params := { Params.default with wSrc := 1 }, srcPort := [0, 0] }.busy = false ∧
    2 ^ 1 ≤ { State.reset with params := { Params.default with wSrc := 1 }, srcPort := [0, 0] }.srcPort.length := by
  decide
theorem witness_ReceiveStartsSession : (receiving .rxHsWait []).busy = true ∧ (sending .done []).busy = false := by
  decide

theorem witness_UnnamedBytesAreDiscarded_txHsWait :
    encode .can = .byte 0x18#8 ∧ (sending .txHsWait [0x18]).rx = 0x18#8 :: [] ∧
    (sending .txHsWait [0x18]).st = .txHsWait ∧ Instr.can ≠ .nak ∧ Instr.can ≠ .crq := by decide
theorem witness_UnnamedBytesAreDiscarded_txBlkWait :
    encode .crq = .byte 0x43#8 ∧ (sending .txBlkWait [0x43]).rx = 0x43#8 :: [] ∧
    (sending .txBlkWait [0x43]).st = .txBlkWait ∧ Instr.crq ≠ .ack ∧ Instr.crq ≠ .nak ∧ Instr.crq ≠ .can := by decide
theorem witness_UnnamedBytesAreDiscarded_txEotWait :
    encode .nak = .byte 0x15#8 ∧ (sending .txEotWait [0x15]).rx = 0x15#8 :: [] ∧
    (sending .txEotWait [0x15]).st = .txEotWait ∧ Instr.nak ≠ .ack ∧ Instr.nak ≠ .can := by decide
theorem witness_UnnamedBytesAreDiscarded_rxHsWait :
    encode .cpmeof = .byte 0x1A#8 ∧ (receiving .rxHsWait [0x1A]).rx = 0x1A#8 :: [] ∧
    (receiving .rxHsWait [0x1A]).st = .rxHsWait ∧ Instr.cpmeof ≠ .soh ∧ Instr.cpmeof ≠ .stx := by decide
theorem witness_UnnamedBytesAreDiscarded_rxNextWait :
    encode (.other 0xFF) = .byte 0xFF#8 ∧ (receiving .rxNextWait [0xFF]).rx = 0xFF#8 :: [] ∧
    (receiving .rxNextWait [0xFF]).st = .rxNextWait ∧ Instr.other 0xFF ≠ .soh ∧ Instr.other 0xFF ≠ .stx ∧
    Instr.other 0xFF ≠ .eot := by decide

/-- A sender in the handshake, mode open, with a source of one byte. -/
def handshake (rx src : List Byte) : State := { sending .txHsWait rx with ckm := .none, src := src }

theorem witness_RequestByteSendsFirstChunk_empty :
    (handshake [0x15] []).st = .txHsWait ∧ (handshake [0x15] []).rx = 0x15#8 :: [] ∧
    (handshake [0x15] []).sptr = (handshake [0x15] []).src.length := by decide
theorem witness_RequestByteSendsFirstChunk_chunk :
    (handshake [0x43] [0x41]).st = .txHsWait ∧ (handshake [0x43] [0x41]).rx = 0x43#8 :: [] ∧
    (handshake [0x43] [0x41]).sptr < (handshake [0x43] [0x41]).src.length ∧
    1 = min (bsz (handshake [0x43] [0x41])) ((handshake [0x43] [0x41]).src.length - (handshake [0x43] [0x41]).sptr) ∧
    ∃ p tr, p = ((handshake [0x43] [0x41]).src.drop 0).take 1 ++ List.replicate (128 - 1) 0x1A#8 ∧
      ckAppend (handshake [0x43] [0x41]).params.checksum .crc16 p = some tr :=
  ⟨rfl, rfl, by decide, by decide, _, _, rfl, rfl⟩
theorem witness_AckSendsNextChunk_last :
    (sending .txBlkWait [0x06]).st = .txBlkWait ∧ (sending .txBlkWait [0x06]).rx = 0x06#8 :: [] ∧
    (sending .txBlkWait [0x06]).sptr = (sending .txBlkWait [0x06]).src.length := by decide
theorem witness_AckSendsNextChunk_full :
    ∃ s : State, s.st = .txBlkWait ∧ s.rx = 0x06#8 :: [] ∧ s.sptr < s.src.length ∧
      128 = min (bsz s) (s.src.length - s.sptr) ∧
      ∃ p tr, p = (s.src.drop s.sptr).take 128 ++ List.replicate (bsz s - 128) 0x1A#8 ∧
        ckAppend s.params.checksum s.ckm p = some tr :=
  ⟨{ sending .txBlkWait [0x06] with src := List.replicate 256 0x00#8, sptr := 128 },
    rfl, rfl, by decide +kernel, by decide +kernel, _, _, rfl, rfl⟩

theorem witness_NakResendsOrAbandons_exhausted :
    { sending .txBlkWait [0x15] with err := 9 }.st = .txBlkWait ∧
    { sending .txBlkWait [0x15] with err := 9 }.rx = 0x15#8 :: [] ∧
    { sending .txBlkWait [0x15] with err := 9 }.err + 1#8 = (sending .txBlkWait [0x15]).params.nMaxErr := by decide
theorem witness_NakResendsOrAbandons_again :
    { sending .txBlkWait [0x15] with err := 8 }.st = .txBlkWait ∧
    { sending .txBlkWait [0x15] with err := 8 }.rx = 0x15#8 :: [] ∧
    { sending .txBlkWait [0x15] with err := 8 }.err + 1#8 ≠ (sending .txBlkWait [0x15]).params.nMaxErr ∧
    ∃ tr, ckAppend .standard .sum8 ((sending .txBlkWait [0x15]).fb.readN 0 128) = some tr :=
  ⟨rfl, rfl, by decide, _, rfl⟩

/-- A wait state whose deadline has expired with nothing in RX. -/
def expiredIn (s : State) : Prop :=
  s.reservedField = none ∧ s.rx = [] ∧ s.expired = true ∧ s.sched.next = .engine

theorem witness_ResponseExpiryResendsOrAbandons_exhausted :
    expiredIn { sending .txBlkWait [] with err := 9, expired := true } ∧
    { sending .txBlkWait [] with err := 9, expired := true }.st = .txBlkWait ∧
    (9#8 + 1#8 : BitVec 8) = Params.default.nMaxErr := by simp [expiredIn]; decide
theorem witness_ResponseExpiryResendsOrAbandons_again :
    expiredIn { sending .txBlkWait [] with err := 8, expired := true } ∧
    { sending .txBlkWait [] with err := 8, expired := true }.st = .txBlkWait ∧
    (8#8 + 1#8 : BitVec 8) ≠ Params.default.nMaxErr ∧
    ∃ tr, ckAppend .standard .sum8 ((sending .txBlkWait []).fb.readN 0 128) = some tr :=
  ⟨by unfold expiredIn; decide, rfl, by decide, _, rfl⟩
theorem witness_BytesThatEndASession :
    (sending .txBlkWait [0x18, 0x18]).rx = 0x18#8 :: [0x18#8] ∧ (sending .txBlkWait [0x18, 0x18]).st = .txBlkWait ∧
    (sending .txEotWait [0x18]).rx = 0x18#8 :: [] ∧ (sending .txEotWait [0x18]).st = .txEotWait ∧
    (sending .txEotWait [0x06]).rx = 0x06#8 :: [] ∧ (sending .txEotWait [0x06]).st = .txEotWait ∧
    (receiving .rxNextWait [0x04]).rx = 0x04#8 :: [] ∧ (receiving .rxNextWait [0x04]).st = .rxNextWait := by decide
theorem witness_EotExpiryRepeatsOrEnds_last :
    expiredIn { sending .txEotWait [] with rtry := 10, expired := true } ∧
    { sending .txEotWait [] with rtry := 10, expired := true }.rtry = Params.default.nTxEot :=
  ⟨by unfold expiredIn; decide, rfl⟩
theorem witness_EotExpiryRepeatsOrEnds_again :
    expiredIn { sending .txEotWait [] with rtry := 9, expired := true } ∧
    { sending .txEotWait [] with rtry := 9, expired := true }.rtry ≠ Params.default.nTxEot :=
  ⟨by unfold expiredIn; decide, by decide⟩
theorem witness_SenderHandshakeTimeout :
    expiredIn { handshake [] [] with expired := true } ∧ (handshake [] []).st = .txHsWait :=
  ⟨by unfold expiredIn; decide, rfl⟩

theorem witness_FrameHeaderIsRead :
    (receiving .rxHsWait [0x01]).st = .rxHsWait ∧ (receiving .rxHsWait [0x01]).rx = 0x01#8 :: [] ∧
    (receiving .rxNextWait [0x02]).st = .rxNextWait ∧ (receiving .rxNextWait [0x02]).rx = 0x02#8 :: [] ∧
    encode .eot = .byte 0x04#8 ∧ (receiving .rxSeq [0x04]).st = .rxSeq ∧
    (receiving .rxSeq [0x04]).rx = 0x04#8 :: [] := by decide

/-- A receiver at the complement byte of a frame with the given sequence byte. -/
def atComplement (seq rseq c : Byte) (drain : Bool) (err : BitVec 8) : State :=
  { receiving .rxCmpl [c] with
    seq := seq, rseq := rseq, err := err, params := { Params.default with drainOnReject := drain } }

theorem witness_ComplementByteClassifies_input :
    encode .soh = .byte 0x01#8 ∧ (atComplement 0 0xFF 0x01 true 0).st = .rxCmpl ∧
    (atComplement 0 0xFF 0x01 true 0).rx = 0x01#8 :: [] ∧ encode (.other 0xFE) = .byte 0xFE#8 := by decide
theorem witness_ComplementByteClassifies_dup :
    (atComplement 0x00 0xFF 0x01 true 0).rseq = (atComplement 0x00 0xFF 0x01 true 0).seq + 255#8 ∧
    (atComplement 0x00 0xFF 0x01 true 0).params.drainOnReject = true ∧
    (atComplement 0x01 0x00 0x01 false 0).rseq = (atComplement 0x01 0x00 0x01 false 0).seq + 255#8 ∧
    (atComplement 0x01 0x00 0x01 false 0).params.drainOnReject = false := by decide
theorem witness_ComplementByteClassifies_sync :
    (atComplement 0x01 0x02 0xFD true 0).rseq ≠ (atComplement 0x01 0x02 0xFD true 0).seq + 255#8 ∧
    (atComplement 0x01 0x02 0xFD true 0).rseq ≠ (atComplement 0x01 0x02 0xFD true 0).seq := by decide
theorem witness_ComplementByteClassifies_invalid :
    (atComplement 0x01 0x01 0x01 true 0).rseq = (atComplement 0x01 0x01 0x01 true 0).seq ∧
    (0x01#8 : Byte) ≠ ~~~(atComplement 0x01 0x01 0x01 true 0).rseq ∧
    (atComplement 0x01 0x01 0x01 true 0).params.drainOnReject = true ∧
    (atComplement 0x01 0x01 0x01 false 9).params.drainOnReject = false ∧
    (atComplement 0x01 0x01 0x01 false 9).err + 1#8 = (atComplement 0x01 0x01 0x01 false 9).params.nMaxErr ∧
    (atComplement 0x01 0x01 0x01 false 8).err + 1#8 ≠ (atComplement 0x01 0x01 0x01 false 8).params.nMaxErr := by decide
theorem witness_ComplementByteClassifies_candidate :
    (atComplement 0x01 0x01 0xFE true 0).rseq = (atComplement 0x01 0x01 0xFE true 0).seq ∧
    (0xFE#8 : Byte) = ~~~(atComplement 0x01 0x01 0xFE true 0).rseq := by decide

/-- A receiver inside a short frame of zeros, SUM8. -/
def inData (idx : BitVec 11) (b : Byte) (err : BitVec 8) : State :=
  { receiving .rxData [b] with idx := idx, err := err }

theorem witness_DataByteStoredAndFrameVerified_input :
    encode (.other 0x00) = .byte 0x00#8 ∧ (inData 128 0 0).st = .rxData ∧ (inData 128 0 0).rx = 0x00#8 :: [] ∧
    trailerLength (inData 128 0 0).ckm = some 1 := by decide
theorem witness_DataByteStoredAndFrameVerified_inside :
    (inData 0 0 0).idx.toNat + 1 < bsz (inData 0 0 0) + 1 ∧
    (inData 127 0 0).idx.toNat + 1 < bsz (inData 127 0 0) + 1 := by
  decide
theorem witness_DataByteStoredAndFrameVerified_good :
    (inData 128 0 0).idx.toNat + 1 = bsz (inData 128 0 0) + 1 ∧
    ckAppend .standard .sum8 (((inData 128 0 0).fb.write 128 [0x00#8]).readN 0 128) =
      some (((inData 128 0 0).fb.write 128 [0x00#8]).readN 128 1) := by decide +kernel
theorem witness_DataByteStoredAndFrameVerified_bad :
    (inData 128 1 9).idx.toNat + 1 = bsz (inData 128 1 9) + 1 ∧
    ckAppend .standard .sum8 (((inData 128 1 9).fb.write 128 [0x01#8]).readN 0 128) ≠
      some (((inData 128 1 9).fb.write 128 [0x01#8]).readN 128 1) ∧
    (inData 128 1 9).err + 1#8 = Params.default.nMaxErr ∧ (inData 128 1 8).err + 1#8 ≠ Params.default.nMaxErr := by
  decide +kernel

/-- A receiver draining a rejected short frame, SUM8. -/
def inDrain (idx : BitVec 11) (p : Pending) (err : BitVec 8) : State :=
  { receiving .rxDrain [0x18] with idx := idx, pend := p, err := err }

theorem witness_DrainedFrameIsAnswered :
    encode .can = .byte 0x18#8 ∧ (inDrain 127 .dup 0).st = .rxDrain ∧ (inDrain 127 .dup 0).rx = 0x18#8 :: [] ∧
    trailerLength (inDrain 127 .dup 0).ckm = some 1 ∧
    (inDrain 127 .dup 0).idx.toNat + 1 < bsz (inDrain 127 .dup 0) + 1 ∧
    (inDrain 128 .dup 0).idx.toNat + 1 = bsz (inDrain 128 .dup 0) + 1 ∧ (inDrain 128 .dup 0).pend = .dup ∧
    (inDrain 128 .invalid 9).idx.toNat + 1 = bsz (inDrain 128 .invalid 9) + 1 ∧
    (inDrain 128 .invalid 9).pend = .invalid ∧
    (inDrain 128 .invalid 9).err + 1#8 = (inDrain 128 .invalid 9).params.nMaxErr ∧
    (inDrain 128 .invalid 8).err + 1#8 ≠ (inDrain 128 .invalid 8).params.nMaxErr := by decide

theorem witness_FrameExpiryIsAnswered_frame :
    expiredIn { receiving .rxSeq [] with expired := true, err := 9 } ∧
    expiredIn { receiving .rxCmpl [] with expired := true, err := 8 } ∧
    expiredIn { receiving .rxData [] with expired := true } ∧
    (9#8 + 1#8 : BitVec 8) = Params.default.nMaxErr ∧ (8#8 + 1#8 : BitVec 8) ≠ Params.default.nMaxErr := by
  unfold expiredIn; decide
theorem witness_FrameExpiryIsAnswered_drain :
    expiredIn { inDrain 5 .invalid 0 with rx := [], expired := true } ∧
    (inDrain 5 .invalid 0).st = .rxDrain ∧ (inDrain 5 .invalid 0).pend = .invalid ∧
    expiredIn { inDrain 5 .dup 0 with rx := [], expired := true } ∧
    (inDrain 5 .dup 0).st = .rxDrain ∧ (inDrain 5 .dup 0).pend = .dup := by
  unfold expiredIn; decide
theorem witness_ReceiverHandshakeExpiry :
    expiredIn { receiving .rxHsWait [] with rtry := 9, expired := true } ∧
    expiredIn { receiving .rxHsWait [] with rtry := 8, expired := true } ∧
    (9#8 + 1#8 : BitVec 8) = Params.default.nRxHs ∧ (8#8 + 1#8 : BitVec 8) ≠ Params.default.nRxHs := by
  unfold expiredIn; decide
theorem witness_NextBlockExpiryRepeatsResponse :
    expiredIn { receiving .rxNextWait [] with rtry := 9, expired := true } ∧
    expiredIn { receiving .rxNextWait [] with rtry := 0, last := true, expired := true } ∧
    (9#8 + 1#8 : BitVec 8) = Params.default.nRxNext ∧ (0#8 + 1#8 : BitVec 8) ≠ Params.default.nRxNext := by
  unfold expiredIn; decide

theorem witness_FrameBufferChangesOnlyWhereStored_data :
    (∃ t, exec (.other 0xFF) (inData 127 0xFF 0) = .next t) ∧ (inData 127 0xFF 0).st = .rxData ∧
    (0 : Nat) ≠ (inData 127 0xFF 0).idx.toNat := ⟨⟨_, rfl⟩, rfl, by decide⟩
theorem witness_FrameBufferChangesOnlyWhereStored_sender :
    (∃ t, exec .nak (handshake [0x15] []) = .next t) ∧ (handshake [0x15] []).st = .txHsWait ∧
    bsz (handshake [0x15] []) ≤ 128 := ⟨⟨_, rfl⟩, rfl, by decide⟩
theorem witness_FrameBufferChangesOnlyWhereStored_none :
    (∃ t, exec .can (receiving .rxSeq [0x18]) = .next t) ∧ (receiving .rxSeq [0x18]).st ≠ .rxData ∧
    (receiving .rxSeq [0x18]).st ≠ .txHsWait ∧ (receiving .rxSeq [0x18]).st ≠ .txBlkWait :=
  ⟨⟨_, rfl⟩, by decide, by decide, by decide⟩
theorem witness_FrameBufferChangesOnlyWhereStored_command :
    (∃ t, exec (.receive true) State.reset = .next t) ∧ Instr.port (.receive true) = .command := ⟨⟨_, rfl⟩, rfl⟩

theorem witness_HardwareResetValues :
    { receiving .rxData [] with sched := upcoming [.reset, .engine] }.sched.next = .reset := rfl

/-! The invariant of a state in the middle of a session: block 1 of the source "A" sent, nine errors counted, a NAK
and an expiry waiting. -/

def block1 : List Byte := padded 128 [0x41]

def lastChance (rx : List Byte) : State :=
  { sending .txBlkWait rx with
    err := 9, src := [0x41], sptr := 1, fb := Memory.write [] 0 block1, deadline := some .txResp, expired := true }

theorem lastChance_good (rx : List Byte) : Inv (lastChance rx) where
  params := by simp only [lastChance, sending, State.reset]; decide
  legal := (by decide : (lastChance []).reservedField = none)
  fbWf := by
    show (Memory.write [] 0 block1).wf
    decide +kernel
  errBelow := fun _ => by simp only [lastChance, sending, State.reset]; decide
  errDone := fun h => by cases h
  rtryRxHs := fun h => by cases h
  rtryRxNext := fun h => by cases h
  rtryTxEot := fun h => by cases h
  role := fun r h => by cases h; rfl
  modeOpen := fun h => by cases h
  modeSet := fun _ _ => .inl rfl
  idxInFrame := fun h => by rcases h with h | h <;> cases h
  pendSet := fun h => by cases h
  candidate := fun h => by cases h
  drainedDup := fun h => by cases h
  drainedInvalid := fun h => by cases h
  sptrInSrc := by simp only [lastChance, sending, State.reset]; decide
  srcFits := by simp only [lastChance, sending, State.reset]; decide
  atEnd := fun h => by cases h
  noResultYet := fun _ => rfl
  outcome := fun h => by cases h
  idleNotCancelled := fun h => by cases h
  deadlineRunning := fun _ => rfl
  expiredStarted := fun _ => rfl
  dstWhole := ⟨0, rfl⟩

theorem lastChance_frameLaw (rx : List Byte) : FrameLaw (lastChance rx) where
  handshake := fun h => by cases h
  block := fun _ => ⟨1, by decide, by
    simp only [lastChance, sending, State.reset, bsz]; decide, rfl, rfl, by
    show (Memory.write [] 0 block1).readN 0 128 = padded 128 (([0x41#8].drop 0).take 128)
    decide +kernel⟩

theorem witness_EveryStepKeepsInvariant : Inv (lastChance [0x15]) ∧ ∃ t, step (lastChance [0x15]) = .next t :=
  ⟨lastChance_good _, _, rfl⟩
theorem witness_NoFaultFromGoodState : Inv (lastChance []) := lastChance_good _

/-- Outside a session, a SEND next, and a source one byte too long for its pointer. -/
def tooLong : State :=
  { State.reset with
    params := { Params.default with wSrc := 1 }, srcPort := [0, 0], sched := upcoming [.host 0b001#3] }

theorem tooLong_good : Inv tooLong where
  params := by decide
  legal := rfl
  fbWf := by decide
  errBelow := fun _ => by decide
  errDone := fun h => by cases h
  rtryRxHs := fun h => by cases h
  rtryRxNext := fun h => by cases h
  rtryTxEot := fun h => by cases h
  role := fun r h => by cases h
  modeOpen := fun h => by cases h
  modeSet := fun h _ => by cases h
  idxInFrame := fun h => by rcases h with h | h <;> cases h
  pendSet := fun h => by cases h
  candidate := fun h => by cases h
  drainedDup := fun h => by cases h
  drainedInvalid := fun h => by cases h
  sptrInSrc := by decide
  srcFits := by decide
  atEnd := fun h => by cases h
  noResultYet := fun _ => rfl
  outcome := fun h => by cases h
  idleNotCancelled := fun _ => rfl
  deadlineRunning := fun h => by cases h
  expiredStarted := fun h => by cases h
  dstWhole := ⟨0, rfl⟩

theorem witness_NoFaultFromGoodState_refused : Inv tooLong ∧ sendsTooLong tooLong :=
  ⟨tooLong_good, 0b001#3, false, rfl, rfl, rfl, Nat.le_refl 2⟩
theorem witness_EveryStepKeepsFrameLaw :
    Inv (lastChance [0x06]) ∧ FrameLaw (lastChance [0x06]) ∧ ∃ t, step (lastChance [0x06]) = .next t :=
  ⟨lastChance_good _, lastChance_frameLaw _, _, rfl⟩
theorem witness_SessionEndsByStateOutcomes :
    Inv (lastChance [0x15]) ∧ (lastChance [0x15]).busy = true ∧
    ∃ t, step (lastChance [0x15]) = .next t ∧ t.st = .done := ⟨lastChance_good _, rfl, _, rfl, rfl⟩
theorem witness_ResultChangesOnlyAtEndStartReset_end :
    ∃ t, step (lastChance [0x18]) = .next t ∧ t.result ≠ (lastChance [0x18]).result := ⟨_, rfl, by decide⟩
theorem witness_ResultChangesOnlyAtEndStartReset_reset :
    ∃ t, step { sending .done [] with result := 0x11, sched := upcoming [.reset] } = .next t ∧
      startsOrResets { sending .done [] with result := 0x11, sched := upcoming [.reset] } t ∧
      t.result ≠ { sending .done [] with result := 0x11, sched := upcoming [.reset] }.result :=
  ⟨_, rfl, .inr rfl, by decide⟩
theorem witness_ResultChangesOnlyAtEndStartReset_start :
    ∃ t, step { sending .done [] with result := 0x11, sched := upcoming [.host 0b001#3] } = .next t ∧
      t.result ≠ { sending .done [] with result := 0x11, sched := upcoming [.host 0b001#3] }.result :=
  ⟨_, rfl, by decide⟩
theorem witness_OnlySessionStartOrResetLeavesDone_start :
    ∃ t, step { sending .done [] with sched := upcoming [.host 0b010#3] } = .next t ∧ t.st ≠ .done :=
  ⟨_, rfl, by decide⟩
theorem witness_OnlySessionStartOrResetLeavesDone_reset :
    ∃ t, step { sending .done [] with sched := upcoming [.reset] } = .next t ∧ t.st ≠ .done := ⟨_, rfl, by decide⟩
theorem witness_SequenceAdvancesOnlyOnSuccess_acked :
    ∃ t, step { lastChance [0x06] with seq := 0xFF } = .next t ∧ blockSucceeds { lastChance [0x06] with seq := 0xFF } t :=
  ⟨_, rfl, .inl ⟨rfl, [], rfl, rfl⟩⟩
theorem witness_SequenceAdvancesOnlyOnSuccess_accepted :
    after (fun t => (t.st, t.tx)) (step (inData 128 0 0)) = some (.rxNextWait, [0x06]) ∧
    (inData 128 0 0).st = .rxData ∧ (inData 128 0 0).tx = [] := by decide +kernel
theorem witness_SequenceAdvancesOnlyOnSuccess_start :
    ∃ t, step { sending .done [] with seq := 0x07, sched := upcoming [.host 0b001#3] } = .next t ∧
      startsOrResets { sending .done [] with seq := 0x07, sched := upcoming [.host 0b001#3] } t :=
  ⟨_, rfl, .inl ⟨rfl, rfl⟩⟩
theorem witness_SequenceAdvancesOnlyOnSuccess_reset :
    ∃ t, step { sending .txBlkWait [0x06] with sched := upcoming [.reset] } = .next t ∧
      startsOrResets { sending .txBlkWait [0x06] with sched := upcoming [.reset] } t := ⟨_, rfl, .inr rfl⟩
theorem witness_SequenceAdvancesOnlyOnSuccess_kept :
    ∃ t, step (sending .txBlkWait []) = .next t ∧ ¬ blockSucceeds (sending .txBlkWait []) t ∧
      ¬ startsOrResets (sending .txBlkWait []) t :=
  ⟨_, rfl, fun h => (by rcases h with ⟨_, _, h, _⟩ | ⟨h, _⟩ <;> cases h),
    fun h => (by rcases h with ⟨h, _⟩ | h <;> cases h)⟩
theorem witness_OnlyTheseBytesAreEmitted :
    Inv (lastChance [0x15]) ∧ ∃ t, step (lastChance [0x15]) = .next t := ⟨lastChance_good _, _, rfl⟩
theorem witness_DestinationOnlyGainsAcceptedPayloads :
    (∃ t, step (inData 127 0 0) = .next t) ∧
    ∃ t, step { receiving .done [] with dst := [1], sched := upcoming [.host 0b010#3] } = .next t ∧ t.dst = [] :=
  ⟨⟨_, rfl⟩, _, rfl, rfl⟩
theorem witness_FormatIsFixedForTheSession :
    Inv (lastChance [0x06]) ∧ (lastChance [0x06]).busy = true ∧
    (lastChance [0x06]).sched.next ≠ .reset ∧ ∃ t, step (lastChance [0x06]) = .next t :=
  ⟨lastChance_good _, rfl, by decide, _, rfl⟩
theorem witness_CancellationLatchHolds_set :
    ∃ t, step { sending .txHsWait [] with sched := upcoming [.host 0b011#3] } = .next t ∧
      { sending .txHsWait [] with sched := upcoming [.host 0b011#3] }.cxl = false ∧ t.cxl = true := ⟨_, rfl, rfl, rfl⟩
theorem witness_CancellationLatchHolds_cleared :
    ∃ t, step { sending .done [] with cxl := true, sched := upcoming [.host 0b001#3] } = .next t ∧
      { sending .done [] with cxl := true, sched := upcoming [.host 0b001#3] }.cxl = true ∧ t.cxl = false :=
  ⟨_, rfl, rfl, rfl⟩
theorem witness_CancellationLatchHolds_reset :
    ∃ t, step { sending .txHsWait [] with cxl := true, sched := upcoming [.reset] } = .next t ∧
      { sending .txHsWait [] with cxl := true, sched := upcoming [.reset] }.cxl = true ∧ t.cxl = false :=
  ⟨_, rfl, rfl, rfl⟩
theorem witness_ExpiryIsServedOnce :
    Inv (lastChance []) ∧ (lastChance []).busy = true ∧ (lastChance []).rx = [] ∧ (lastChance []).expired = true ∧
    ∃ t, engineTurn (lastChance []) = .next t := ⟨lastChance_good _, rfl, rfl, rfl, _, rfl⟩
theorem witness_InputIsConsumedInOrder :
    (∃ t, step (receiving .rxNextWait [0x18]) = .next t) ∧ (receiving .rxNextWait [0x18]).sched.next = .engine ∧
    (receiving .rxNextWait [0x18]).busy = true ∧ (receiving .rxNextWait [0x18]).rx ≠ [] :=
  ⟨⟨_, rfl⟩, rfl, rfl, by decide⟩
theorem witness_ParametersAndSourceAreFixed_src :
    ∃ t, step { State.reset with srcPort := [1], sched := upcoming [.host 0b001#3] } = .next t ∧
      t.src ≠ { State.reset with srcPort := [1], sched := upcoming [.host 0b001#3] }.src := ⟨_, rfl, by decide⟩
theorem witness_ParametersAndSourceAreFixed_port :
    ∃ t, step { State.reset with sched := upcoming [.bindSrc [1]] } = .next t ∧
      t.srcPort ≠ { State.reset with sched := upcoming [.bindSrc [1]] }.srcPort := ⟨_, rfl, by decide⟩
theorem witness_StatusReadbackIsExact : Inv (lastChance []) := lastChance_good _

theorem witness_NoStepDependsOnLeftovers :
    SameButLeftovers (receiving .rxData [0x00]) { receiving .rxData [0x00] with fb := [(7, 0x55#8)], rcmp := 0x33 } ∧
    ∃ t, step (receiving .rxData [0x00]) = .next t :=
  ⟨⟨rfl, fun h => (by cases h), fun _ a ha => absurd ha (Nat.not_lt_zero a), fun h => (by cases h)⟩, _, rfl⟩
theorem witness_SessionStartForgetsRegisters :
    State.reset.busy = false ∧ { sending .done [] with err := 7, cxl := true }.busy = false ∧
    { sending .done [] with err := 7, cxl := true }.params = State.reset.params ∧
    { sending .done [] with err := 7, cxl := true }.rx = State.reset.rx ∧
    { sending .done [] with err := 7, cxl := true }.tx = State.reset.tx ∧
    { sending .done [] with err := 7, cxl := true }.srcPort = State.reset.srcPort ∧
    { sending .done [] with err := 7, cxl := true }.sched = State.reset.sched ∧
    { sending .done [] with err := 7, cxl := true }.dst = State.reset.dst ∧
    { sending .done [] with err := 7, cxl := true }.src = State.reset.src ∧
    (∃ t, exec (.send true) State.reset = .next t) ∧ ∃ t, exec (.receive true) State.reset = .next t :=
  ⟨rfl, rfl, rfl, rfl, rfl, rfl, rfl, rfl, rfl, ⟨_, rfl⟩, ⟨_, rfl⟩⟩

/-- The frame of block 255, 128 bytes of 0x04, and one byte of the next. -/
theorem witness_GoodFrameIsAccepted :
    ∃ s : State, ∃ p tr rest : List Byte, s.reservedField = none ∧ s.st = .rxNextWait ∧
      p.length = blockSize false ∧ ckAppend s.params.checksum s.ckm p = some tr ∧
      s.rx = frameBytes false s.seq p tr ++ rest ∧ s.seq = 0xFF#8 ∧ rest = [0x04#8] ∧
      132 = 3 + p.length + tr.length ∧ s.sched.ahead 132 = List.replicate 132 .engine :=
  ⟨{ receiving .rxNextWait
        (frameBytes false 0xFF#8 (List.replicate 128 0x04#8) [sum8 (List.replicate 128 0x04#8)] ++ [0x04#8]) with
      seq := 0xFF#8 },
    List.replicate 128 0x04#8, _, _, rfl, rfl, List.length_replicate, rfl, rfl, rfl, rfl, by
      rw [List.length_replicate]; rfl, Laws.ahead_same .engine 132⟩
/-- A long frame in the receiver's handshake, the engine's turns listed. -/
theorem witness_GoodFrameIsAccepted_long :
    ∃ s : State, ∃ p tr rest : List Byte, s.reservedField = none ∧ s.st = .rxHsWait ∧
      p.length = blockSize true ∧ ckAppend s.params.checksum s.ckm p = some tr ∧
      s.rx = frameBytes true s.seq p tr ++ rest ∧
      1029 = 3 + p.length + tr.length ∧ s.sched.ahead 1029 = List.replicate 1029 .engine :=
  ⟨{ receiving .rxHsWait
        (frameBytes true 0x01#8 (List.replicate 1024 0x04#8) (crc16Trailer (List.replicate 1024 0x04#8)) ++ []) with
      ckm := .crc16, sched := { turns := List.replicate 1029 .engine, onward := .free 0 0 } },
    List.replicate 1024 0x04#8, _, _, rfl, rfl, List.length_replicate, rfl, rfl, by
      rw [List.length_replicate]; rfl, by
      have h := Laws.ahead_turns (List.replicate 1029 .engine) (.free 0 0)
      rwa [List.length_replicate] at h⟩
theorem witness_DuplicateFrameIsAckedAndDropped :
    ∃ s : State, ∃ bs rest : List Byte, s.reservedField = none ∧ s.st = .rxHsWait ∧
      s.params.drainOnReject = true ∧ trailerLength s.ckm = some 1 ∧ bs.length = blockSize false + 1 ∧
      s.rx = header false :: (s.seq + 255#8) :: 0x77#8 :: (bs ++ rest) ∧
      132 = 3 + bs.length ∧ s.sched.ahead 132 = List.replicate 132 .engine :=
  ⟨receiving .rxHsWait (0x01#8 :: 0x00#8 :: 0x77#8 :: (List.replicate 129 0x18#8 ++ [])), List.replicate 129 0x18#8, _,
    rfl, rfl, rfl, rfl, List.length_replicate, rfl, by
      rw [List.length_replicate], Laws.ahead_same .engine 132⟩

theorem witness_SilentTransmitterEndsReceive :
    ∃ s : State, s.reservedField = none ∧ s.busy = false ∧ s.rx = [] ∧ s.params.nRxHs = BitVec.ofNat 8 1 ∧
      s.sched.ahead (1 + 2 * 1) =
        .host (cmdWord true 0b10#2) :: (List.replicate 1 [Turn.timer, Turn.engine]).flatten :=
  ⟨{ State.reset with
      params := { Params.default with nRxHs := 1 }, sched := upcoming [.host 0b110#3, .timer, .engine] },
    rfl, rfl, rfl, rfl, rfl⟩
theorem witness_SilentTransmitterEndsReceive_largest :
    ∃ s : State, s.reservedField = none ∧ s.busy = false ∧ s.rx = [] ∧ s.params.nRxHs = BitVec.ofNat 8 255 ∧
      s.sched.ahead (1 + 2 * 255) =
        .host (cmdWord false 0b10#2) :: (List.replicate 255 [Turn.timer, Turn.engine]).flatten :=
  ⟨{ State.reset with
      params := { Params.default with nRxHs := 255 },
      sched := { turns := [.host 0b010#3], onward := .repeating .timer [.engine] } },
    rfl, rfl, rfl, rfl, congrArg (Turn.host 0b010#3 :: ·) (Laws.ahead_rounds .timer [.engine] 255)⟩
/-- After the last ACK at the smallest bound, and with an empty source at the largest. -/
theorem witness_UnansweredEotEndsSend :
    ∃ s : State, s.reservedField = none ∧ s.rx = [] ∧ s.sptr = s.src.length ∧ s.st = .txBlkWait ∧
      s.params.nTxEot = BitVec.ofNat 8 1 ∧
      s.sched.ahead (2 + 2 * 1) =
        [Turn.peer 0x06#8, Turn.engine] ++ (List.replicate 1 [Turn.timer, Turn.engine]).flatten :=
  ⟨{ sending .txBlkWait [] with
      src := [0x41], sptr := 1, params := { Params.default with nTxEot := 1 },
      sched := upcoming [.peer 0x06#8, .engine, .timer, .engine] },
    rfl, rfl, rfl, rfl, rfl, rfl⟩
theorem witness_UnansweredEotEndsSend_empty :
    ∃ s : State, s.reservedField = none ∧ s.rx = [] ∧ s.sptr = s.src.length ∧ s.st = .txHsWait ∧
      s.params.nTxEot = BitVec.ofNat 8 255 ∧
      s.sched.ahead (2 + 2 * 255) =
        [Turn.peer 0x43#8, Turn.engine] ++ (List.replicate 255 [Turn.timer, Turn.engine]).flatten :=
  ⟨{ handshake [] [] with
      params := { Params.default with nTxEot := 255 },
      sched := { turns := [.peer 0x43#8, .engine], onward := .repeating .timer [.engine] } },
    rfl, rfl, rfl, rfl, rfl,
    congrArg (Turn.peer 0x43#8 :: Turn.engine :: ·) (Laws.ahead_rounds .timer [.engine] 255)⟩
theorem witness_SilenceAfterBlockEndsReceive :
    ∃ s : State, s.reservedField = none ∧ s.st = .rxNextWait ∧ s.rx = [] ∧ s.rtry = 0x00#8 ∧
      s.deadline = some .rxNext ∧ s.params.nRxNext = BitVec.ofNat 8 255 ∧ s.last = true ∧
      s.sched.ahead (2 * 255) = (List.replicate 255 [Turn.timer, Turn.engine]).flatten :=
  ⟨{ receiving .rxNextWait [] with
      deadline := some .rxNext, last := true, params := { Params.default with nRxNext := 255 },
      sched := { turns := [], onward := .repeating .timer [.engine] } },
    rfl, rfl, rfl, rfl, rfl, rfl, rfl, Laws.ahead_rounds .timer [.engine] 255⟩
theorem witness_SilenceAfterBlockEndsReceive_smallest :
    ∃ s : State, s.reservedField = none ∧ s.st = .rxNextWait ∧ s.rx = [] ∧ s.rtry = 0x00#8 ∧
      s.deadline = some .rxNext ∧ s.params.nRxNext = BitVec.ofNat 8 1 ∧ s.last = false ∧
      s.sched.ahead (2 * 1) = (List.replicate 1 [Turn.timer, Turn.engine]).flatten :=
  ⟨{ receiving .rxNextWait [] with
      deadline := some .rxNext, params := { Params.default with nRxNext := 1 },
      sched := upcoming [.timer, .engine] },
    rfl, rfl, rfl, rfl, rfl, rfl, rfl, rfl⟩
theorem witness_SenderRetryBound :
    ∃ s : State, ∃ answers : List Bool, ∃ tr : List Byte, s.reservedField = none ∧ s.st = .txBlkWait ∧
      s.err = 0x00#8 ∧ s.rx = [] ∧ s.expired = false ∧ s.deadline = some .txResp ∧
      s.params.nMaxErr = BitVec.ofNat 8 answers.length ∧ 1 ≤ answers.length ∧ answers.length ≤ 255 ∧
      ckAppend s.params.checksum s.ckm (s.fb.readN 0 (bsz s)) = some tr ∧
      s.sched.ahead (2 * answers.length) =
        (answers.map (fun nak => [if nak then Turn.peer 0x15#8 else Turn.timer, Turn.engine])).flatten :=
  ⟨{ sending .txBlkWait [] with
      deadline := some .txResp, params := { Params.default with nMaxErr := 2 },
      sched := upcoming [.peer 0x15#8, .engine, .timer, .engine] },
    [true, false], _, rfl, rfl, rfl, rfl, rfl, rfl, rfl, by decide, by decide, rfl, rfl⟩
/-- The largest bound, every answer an expiry. -/
theorem witness_SenderRetryBound_largest :
    ∃ s : State, ∃ answers : List Bool, ∃ tr : List Byte, s.reservedField = none ∧ s.st = .txBlkWait ∧
      s.err = 0x00#8 ∧ s.rx = [] ∧ s.expired = false ∧ s.deadline = some .txResp ∧
      s.params.nMaxErr = BitVec.ofNat 8 answers.length ∧ answers.length = 255 ∧
      ckAppend s.params.checksum s.ckm (s.fb.readN 0 (bsz s)) = some tr ∧
      s.sched.ahead (2 * answers.length) =
        (answers.map (fun nak => [if nak then Turn.peer 0x15#8 else Turn.timer, Turn.engine])).flatten :=
  ⟨{ sending .txBlkWait [] with
      deadline := some .txResp, params := { Params.default with nMaxErr := 255 },
      sched := { turns := [], onward := .repeating .timer [.engine] } },
    List.replicate 255 false, _, rfl, rfl, rfl, rfl, rfl, rfl, by rw [List.length_replicate]; rfl,
    List.length_replicate, rfl, by
      rw [List.length_replicate, List.map_replicate]; exact Laws.ahead_rounds .timer [.engine] 255⟩

/-! Frames a receiver in block 1 of SUM8 does not accept, one of each kind. -/

/-- A short frame cut off after its sequence byte. -/
def cutShort : Attempt := { blk1k := false, body := [0x07], expires := true }
/-- A long frame cut off in its payload. -/
def cutLong : Attempt := { blk1k := true, body := [0x01, 0xFE, 0x18], expires := true }
/-- A short frame with a wrong complement, whole. -/
def badComplement : Attempt := { blk1k := false, body := 0x01 :: 0x01 :: List.replicate 129 0x00, expires := false }
/-- A short frame with a wrong trailer. -/
def badTrailer : Attempt :=
  { blk1k := false, body := 0x01 :: 0xFE :: (List.replicate 128 0x00 ++ [0x01]), expires := false }
/-- A duplicate, its tail lost. -/
def lostTail : Attempt := { blk1k := true, body := [0x00, 0x00, 0x18], expires := true }
/-- A frame with a wrong complement, answered at once. -/
def answeredAtOnce : Attempt := { blk1k := true, body := [0x01, 0x01], expires := false }

theorem witness_failed_cutShort : cutShort.failed 1 (receiving .rxNextWait []) := .inl ⟨by decide, rfl⟩
theorem witness_failed_cutLong : cutLong.failed 1 (receiving .rxNextWait []) :=
  .inr (.inr (.inl ⟨[0x18], rfl, rfl, by decide⟩))
theorem witness_failed_badComplement : badComplement.failed 1 (receiving .rxNextWait []) :=
  .inr (.inl ⟨0x01, List.replicate 129 0x00, rfl, by decide, List.length_replicate⟩)
theorem witness_failed_badTrailer : badTrailer.failed 1 (receiving .rxNextWait []) :=
  .inr (.inr (.inr ⟨List.replicate 128 0x00, [0x01], rfl, rfl, List.length_replicate, rfl, by decide +kernel⟩))
theorem witness_duplicate_lostTail : lostTail.duplicate 1 (receiving .rxNextWait []) :=
  ⟨0x00, [0x18], rfl, (by decide : [0x18#8].length < 1024 + 1)⟩
theorem witness_failed_answeredAtOnce :
    answeredAtOnce.failed 1
      { receiving .rxNextWait [] with params := { Params.default with drainOnReject := false } } :=
  .inr (.inl ⟨0x01, [], rfl, by decide, rfl, rfl⟩)

/-- Two failed frames with a duplicate between them, at a bound of three with one error counted before. -/
theorem witness_ReceiverRetryBound :
    ∃ s : State, s.reservedField = none ∧ s.st = .rxNextWait ∧ s.rx = [] ∧ trailerLength s.ckm = some 1 ∧
      (∀ x ∈ [(true, cutShort), (false, lostTail)], if x.1 then x.2.failed 1 s else x.2.duplicate 1 s) ∧
      cutLong.failed 1 s ∧
      s.err.toNat + ([(true, cutShort), (false, lostTail)].filter (·.1)).length + 1 = s.params.nMaxErr.toNat ∧
      ∃ ts, ts = ([(true, cutShort), (false, lostTail)].map (·.2.turns)).flatten ++ cutLong.turns ∧
        s.sched.ahead ts.length = ts :=
  ⟨{ receiving .rxNextWait [] with
      err := 1, params := { Params.default with nMaxErr := 3 },
      sched := upcoming (([(true, cutShort), (false, lostTail)].map (·.2.turns)).flatten ++ cutLong.turns) },
    rfl, rfl, rfl, rfl, by
      intro x hx
      simp only [List.mem_cons, List.not_mem_nil, or_false] at hx
      rcases hx with rfl | rfl
      · exact witness_failed_cutShort
      · exact witness_duplicate_lostTail,
    witness_failed_cutLong, rfl, _, rfl, Laws.ahead_turns _ _⟩

/-- The source of one byte, and the empty source. -/
theorem witness_IdealChannelSendSucceeds :
    ∃ s : State, s.reservedField = none ∧ s.busy = false ∧ s.rx = [] ∧ s.srcPort.length < 2 ^ s.params.wSrc ∧
      1 = (s.srcPort.length + blockSize false - 1) / blockSize false ∧
      s.sched.ahead (2 * 1 + 5) =
        [Turn.host (cmdWord false 0b01#2), Turn.peer (if true then 0x43#8 else 0x15#8), Turn.engine] ++
        (List.replicate (1 + 1) [Turn.peer 0x06#8, Turn.engine]).flatten :=
  ⟨{ State.reset with
      srcPort := [0x41#8],
      sched := upcoming [.host 0b001#3, .peer 0x43#8, .engine, .peer 0x06#8, .engine, .peer 0x06#8, .engine] },
    rfl, rfl, rfl, by decide, by decide, rfl⟩
theorem witness_IdealChannelSendSucceeds_empty :
    ∃ s : State, s.reservedField = none ∧ s.busy = false ∧ s.rx = [] ∧ s.srcPort.length < 2 ^ s.params.wSrc ∧
      0 = (s.srcPort.length + blockSize true - 1) / blockSize true ∧
      s.sched.ahead (2 * 0 + 5) =
        [Turn.host (cmdWord true 0b01#2), Turn.peer (if false then 0x43#8 else 0x15#8), Turn.engine] ++
        (List.replicate (0 + 1) [Turn.peer 0x06#8, Turn.engine]).flatten :=
  ⟨{ State.reset with sched := upcoming [.host 0b101#3, .peer 0x15#8, .engine, .peer 0x06#8, .engine] },
    rfl, rfl, rfl, by decide, by decide, rfl⟩

/-! Endless schedules: the deadline and the engine in turn, and the bytes of a peer that never stops. -/

def fair : Schedule := { turns := [], onward := .repeating .timer [.engine] }
def flood : Schedule := { turns := [], onward := .repeating (.peer 0x1A#8) [.engine] }

theorem fair_drop (k : Nat) : fair.drop (2 * k) = fair := by
  rw [Nat.mul_comm]; exact Laws.drop_rounds .timer [.engine] k

theorem fair_turn (n : Nat) : fair.turn n = if n % 2 = 0 then .timer else .engine := by
  have h : n = 2 * (n / 2) + n % 2 := (Nat.div_add_mod n 2).symm
  rw [h, Laws.turn_add, fair_drop]
  rcases Nat.mod_two_eq_zero_or_one n with h0 | h0 <;> rw [h0] <;> simp [fair]

theorem witness_EverySessionEnds :
    Inv { lastChance [0x43, 0x15] with sched := fair } ∧ (lastChance [0x43, 0x15]).busy = true ∧
    (∀ n, fair.turn n ≠ .reset) ∧ (∃ m, ∀ n b, m ≤ n → fair.turn n ≠ .peer b) ∧
    (∀ m, ∃ n, m ≤ n ∧ fair.turn n = .timer) ∧ (∀ m, ∃ n, m ≤ n ∧ fair.turn n = .engine) := by
  refine ⟨?_, rfl, fun n => ?_, ⟨0, fun n b _ => ?_⟩,
    fun m => ⟨2 * m, by omega, ?_⟩, fun m => ⟨2 * m + 1, by omega, ?_⟩⟩
  · exact { lastChance_good [0x43, 0x15] with }
  · rw [fair_turn]; split <;> decide
  · rw [fair_turn]; split <;> (intro h; cases h)
  · rw [fair_turn, if_pos (by omega)]
  · rw [fair_turn, if_neg (by omega)]

theorem flood_drop (k : Nat) : flood.drop (2 * k) = flood := by
  rw [Nat.mul_comm]; exact Laws.drop_rounds (.peer 0x1A#8) [.engine] k

/-- A sender in its handshake with a cancellation pending and a byte 0xFF unread, under a flood of 0x1A. -/
theorem witness_EndlessBytesStarveSession :
    { handshake [0xFF] [0x41] with cxl := true, sched := flood }.reservedField = none ∧
    (handshake [0xFF] [0x41]).st = .txHsWait ∧ (∀ b ∈ (handshake [0xFF] [0x41]).rx, classOther b) ∧
    (∀ n, flood.turn n ≠ .reset ∧ ∀ b, flood.turn n = .peer b → classOther b) ∧
    (∀ n, polls (flood.ahead n) ≤ (handshake [0xFF] [0x41]).rx.length + arrivals (flood.ahead n)) := by
  refine ⟨rfl, rfl, by simp [handshake, sending, State.reset, classOther], fun n => ?_, fun n => ?_⟩ <;> obtain ⟨k, r, hr, rfl⟩ : ∃ k r, r < 2 ∧ n = 2 * k + r :=
    ⟨n / 2, n % 2, Nat.mod_lt _ (by decide), (Nat.div_add_mod n 2).symm⟩
  · rw [Laws.turn_add, flood_drop]
    obtain rfl | rfl : r = 0 ∨ r = 1 := by omega
    · exact ⟨by decide, fun b h => by cases h; unfold classOther; decide⟩
    · exact ⟨by decide, fun b h => by cases h⟩
  · have h : ∀ k, polls (flood.ahead (2 * k)) = k ∧ arrivals (flood.ahead (2 * k)) = k := fun k => by
      rw [Nat.mul_comm, show flood.ahead (k * 2) = _ from Laws.ahead_rounds (.peer 0x1A#8) [.engine] k]
      induction k with
      | zero => exact ⟨rfl, rfl⟩
      | succ k ih =>
        rw [List.replicate_succ, List.flatten_cons]
        simp only [polls, arrivals, List.countP_append] at ih ⊢
        rw [ih.1, ih.2]
        exact ⟨by simp [Nat.add_comm], by simp [Nat.add_comm]⟩
    rw [Laws.ahead_add, flood_drop]
    have hk := h k
    simp only [polls, arrivals, List.countP_append] at hk ⊢
    rw [hk.1, hk.2, show (handshake [0xFF] [0x41]).rx.length = 1 from rfl]
    obtain rfl | rfl : r = 0 ∨ r = 1 := by omega
    · simp
    · simp [flood]; omega

end Sys2Proof.Tests
end

section
/-!
PROOFS. Scope: the turns of the agents other than the engine (spec/00_scope.md R15), and what only the host decides:
the parameters (R9), SRC and the SRC port (R72).
-/

namespace Sys2Proof.Laws

open Sys2Proof Sys2Proof.Machine Sys2Proof.Config

/-! The turns of timer and SRC port. -/

theorem elapse_of_deadline {s : State} {sel : TimerSel} (h : s.deadline = some sel) :
    elapse s = { s with expired := true } := by
  simp [elapse, h]

theorem elapse_of_no_deadline {s : State} (h : s.deadline = none) : elapse s = s := by
  simp [elapse, h]

theorem step_bindSrc {s : State} {bs : List Byte} (h : s.sched.next = .bindSrc bs) :
    step s = .next { s with sched := s.sched.rest, srcPort := bs } := by
  simp only [step, scheduledTurn, h, runTurn]

/-- Settles O8: one equation of `step` for each of these turns. -/
theorem otherAgentsTurns : Obligations.OtherAgentsTurns := by
  intro s
  refine ⟨fun b h => step_peer h, fun sel hd h => ?_, fun hd h => ?_, fun bs h => step_bindSrc h⟩
  · exact (step_timer h).trans (congrArg Host.Outcome.next (elapse_of_deadline hd))
  · exact (step_timer h).trans (congrArg Host.Outcome.next (elapse_of_no_deadline hd))

/-! What only the host decides: no transition of the engine touches it, and of the commands only SEND does. -/

/-- The parameters, SRC and the SRC port are in `t` as they are in `s`. -/
def HostSideKept (s t : State) : Prop := t.params = s.params ∧ t.src = s.src ∧ t.srcPort = s.srcPort

theorem hostSideKept_invalidAnswered (s : State) : HostSideKept s (invalidAnswered s) :=
  ⟨invalidAnswered_params s, invalidAnswered_src s, invalidAnswered_srcPort s⟩

theorem ChunkMove.hostSideKept {s t : State} (h : ChunkMove s t) : HostSideKept s t := by
  cases h <;> exact ⟨rfl, rfl, rfl⟩

theorem ErrorMove.hostSideKept {s t : State} (h : ErrorMove s t) : HostSideKept s t := by
  cases h <;> exact ⟨rfl, rfl, rfl⟩

theorem ByteMove.hostSideKept {s t : State} {b : Byte} {rest : List Byte} (h : ByteMove s b rest t) :
    HostSideKept s t := by
  cases h with
  | request m t h hb hc => exact hc.hostSideKept
  | acked t h hb hc => exact hc.hostSideKept
  | naked t h hb hc => exact hc.hostSideKept
  | complement h => exact ⟨complemented_params _, complemented_src _, complemented_srcPort _⟩
  | lastData tl h htl hin hn => exact ⟨verified_params _ _, verified_src _ _, verified_srcPort _ _⟩
  | lastDrainInvalid tl h htl hp hn => exact hostSideKept_invalidAnswered _
  | discarded | blockCancelled | eotAcked | eotCancelled | frameStart | sequence | data | drain | lastDrainDup |
    eotTaken => exact ⟨rfl, rfl, rfl⟩

theorem ExpiryMove.hostSideKept {s t : State} (h : ExpiryMove s t) : HostSideKept s t := by
  cases h with
  | txBlk t h he => exact he.hostSideKept
  | frame h => exact hostSideKept_invalidAnswered s
  | drainInvalid h hp => exact hostSideKept_invalidAnswered s
  | txHs | txEotLast | txEot | rxHsLast | rxHs | drainDup | rxNextLast | rxNext => exact ⟨rfl, rfl, rfl⟩

theorem EngineMove.hostSideKept {s t : State} (h : EngineMove s t) : HostSideKept s t := by
  cases h with
  | byte b rest t hrx hm => exact hm.hostSideKept
  | expiry t hrx he hm => exact hm.hostSideKept
  | quiet | cancel | nothing => exact ⟨rfl, rfl, rfl⟩

theorem CommandMove.hostSideKept_or_send {s t : State} {i : Instr} (h : CommandMove s i t) :
    HostSideKept s t ∨ s.busy = false ∧ ∃ opt, t = startSend opt s := by
  cases h with
  | send opt hb hl => exact .inr ⟨hb, opt, rfl⟩
  | ignored | receive | cancel => exact .inl ⟨rfl, rfl, rfl⟩

/-- A step keeps what only the host decides, unless it is an accepted SEND or the host binds the SRC port. -/
theorem step_hostSideKept_or {s t : State} (h : step s = .next t) :
    HostSideKept s t ∨
      (s.busy = false ∧ ∃ opt, t = startSend opt { s with sched := s.sched.rest }) ∨
      ∃ bs, s.sched.next = .bindSrc bs ∧ t = { s with sched := s.sched.rest, srcPort := bs } := by
  cases step_move h with
  | engine t hs hr hm => exact .inl hm.hostSideKept
  | host w i t hs hr hi hm => exact hm.hostSideKept_or_send.imp_right .inl
  | timer hs => left; unfold elapse; split <;> exact ⟨rfl, rfl, rfl⟩
  | bindSrc bs hs => exact .inr (.inr ⟨bs, hs, rfl⟩)
  | peer | reset => exact .inl ⟨rfl, rfl, rfl⟩

/-- Settles O47, by the three things a step can do to the host's side: keep it, fix SRC, bind the port. -/
theorem parametersAndSourceAreFixed : Obligations.ParametersAndSourceAreFixed := by
  intro s t h
  rcases step_hostSideKept_or h with ⟨hparams, hsrc, hport⟩ | ⟨hb, opt, rfl⟩ | ⟨bs, hs, rfl⟩
  · exact ⟨hparams, fun hne => absurd hsrc hne, fun hne => absurd hport hne⟩
  · exact ⟨rfl, fun _ => ⟨hb, rfl, rfl⟩, fun hne => absurd rfl hne⟩
  · exact ⟨rfl, fun hne => absurd rfl hne, fun _ => ⟨bs, hs, rfl⟩⟩

end Sys2Proof.Laws
end

section
/-!
PROOFS. Scope: what a step does to the session (spec/00_scope.md R15, spec/10_state.md R48), as one of five kinds of
step, from which statements about a register follow by cases.
-/

namespace Sys2Proof.Laws

open Sys2Proof Sys2Proof.Machine Sys2Proof.Config Sys2Proof.Safety

/-! Only a running session has a rule for a byte or an expiry. -/

theorem busy_iff {s : State} : s.busy = true ↔ s.st ≠ .idle ∧ s.st ≠ .done := by simp [State.busy]

theorem not_busy_iff {s : State} : s.busy = false ↔ s.st = .idle ∨ s.st = .done := by
  rw [← Bool.not_eq_true, busy_iff]; tauto

theorem busy_of_outsideFrame {s : State} (h : outsideFrame s.st) : s.busy = true := by
  rw [busy_iff]
  constructor <;> intro hst <;> rw [hst] at h <;> exact h

theorem ByteMove.busy {s t : State} {b : Byte} {rest : List Byte} (h : ByteMove s b rest t) : s.busy = true := by
  cases h with
  | discarded h hb => exact busy_of_outsideFrame h
  | frameStart x h hb => rcases h with h | h <;> simp [busy_iff, h]
  | request _ _ h | acked _ h | naked _ h | blockCancelled h | eotAcked h | eotCancelled h | sequence h | complement h
  | data _ h | lastData _ h | drain _ h | lastDrainDup _ h | lastDrainInvalid _ h | eotTaken h => simp [busy_iff, h]

theorem ExpiryMove.busy {s t : State} (h : ExpiryMove s t) : s.busy = true := by
  cases h with
  | frame h => rcases h with h | h | h <;> simp [busy_iff, h]
  | txHs h | txBlk _ h | txEotLast h | txEot h | rxHsLast h | rxHs h | drainDup h | drainInvalid h | rxNextLast h
  | rxNext h => simp [busy_iff, h]

theorem EngineMove.eq_of_not_busy {s t : State} (h : EngineMove s t) (hb : s.busy = false) : t = s := by
  cases h with
  | quiet => rfl
  | byte b rest t hrx hm => simp [hm.busy] at hb
  | expiry t hrx he hm => simp [hm.busy] at hb
  | cancel hb' => simp [hb'] at hb
  | nothing => rfl

/-! The five kinds of step. -/

/-- What an accepted SEND or RECEIVE leaves (R280, R281). -/
inductive Started (s : State) : State → Prop
  | send (opt : Bool) (hl : s.srcPort.length < 2 ^ s.params.wSrc) : Started s (startSend opt s)
  | receive (opt : Bool) : Started s (startReceive opt s)

/-- The transitions of `Move` by what they do to the session. -/
inductive StepKind (s : State) : State → Prop
  | reset (hs : s.sched.next = .reset) : StepKind s (hardwareReset { s with sched := s.sched.rest })
  | start (t : State) (hs : s.sched.next ≠ .reset) (hb : s.busy = false)
      (ht : Started { s with sched := s.sched.rest } t) : StepKind s t
  | latch (w : CmdWord) (opt : Bool) (hs : s.sched.next = .host w) (hw : decodeCommand w = .cancel opt)
      (hb : s.busy = true) : StepKind s { s with sched := s.sched.rest, cxl := true }
  | engine (t : State) (hs : s.sched.next = .engine) (hb : s.busy = true)
      (hm : EngineMove { s with sched := s.sched.rest } t) : StepKind s t
  | quiet (arrived srcPort : List Byte) (expired : Bool) (hs : s.sched.next ≠ .reset)
      (he : expired = s.expired ∨ s.deadline.isSome = true) :
    StepKind s { s with sched := s.sched.rest, rx := s.rx ++ arrived, srcPort := srcPort, expired := expired }

/-- The timer's turn writes the expired indication at most, and only where a deadline was started (R321). -/
theorem elapse_cases (s : State) :
    ∃ e, (e = s.expired ∨ s.deadline.isSome = true) ∧ elapse s = { s with expired := e } := by
  by_cases hd : s.deadline.isSome = true
  · exact ⟨true, .inr hd, if_pos hd⟩
  · exact ⟨s.expired, .inl rfl, if_neg hd⟩

/-- A step that only takes its turn off the schedule. -/
theorem StepKind.idle {s : State} (hs : s.sched.next ≠ .reset) : StepKind s { s with sched := s.sched.rest } := by
  simpa using StepKind.quiet [] s.srcPort s.expired hs (.inl rfl)

theorem step_kind {s t : State} (h : step s = .next t) : StepKind s t := by
  cases step_move h with
  | engine t hs hr hm =>
    cases hb : s.busy with
    | true => exact .engine t hs hb hm
    | false =>
      cases hm.eq_of_not_busy hb
      exact .idle (by simp [hs])
  | host w i t hs hr hi hm =>
    have hne : s.sched.next ≠ .reset := by simp [hs]
    cases hm with
    | ignored => exact .idle hne
    | send opt hb hl => exact .start _ hne hb (.send opt hl)
    | receive opt hb => exact .start _ hne hb (.receive opt)
    | cancel opt hb => exact .latch w opt hs hi hb
  | peer b hs => exact .quiet [b] s.srcPort s.expired (by simp [hs]) (.inl rfl)
  | timer hs =>
    have hne : s.sched.next ≠ .reset := by simp [hs]
    obtain ⟨e, he, heq⟩ := elapse_cases { s with sched := s.sched.rest }
    rw [heq]
    simpa using StepKind.quiet [] s.srcPort e hne he
  | bindSrc bs hs => simpa using StepKind.quiet [] bs s.expired (by simp [hs]) (.inl rfl)
  | reset hs => exact .reset hs

end Sys2Proof.Laws
end

section
/-!
PROOFS. Scope: the invariant of spec/10_state.md R32 to R49, taken apart by wait state, and kept by every step.
-/

namespace Sys2Proof.Laws

open Sys2Proof Sys2Proof.Machine Sys2Proof.Config Sys2Proof.Safety

/-! The invariant by wait state. -/

/-- What the invariant asks in every state. -/
structure Common (s : State) : Prop where
  params : s.params.wf
  ckmLegal : s.ckm ≠ .reserved
  pendLegal : s.pend ≠ .reserved
  fbWf : s.fb.wf
  sptrInSrc : s.sptr ≤ s.src.length
  srcFits : s.src.length < 2 ^ s.params.wSrc
  expiredStarted : s.expired = true → s.deadline.isSome = true
  dstWhole : 128 ∣ s.dst.length

/-- What it asks of a session of role r, in whatever wait state. -/
structure Session (r : Role) (s : State) : Prop extends Common s where
  role : s.role = r
  errBelow : s.err < s.params.nMaxErr
  noResult : s.result = 0x00#8

/-- The checksum mode is chosen (R39). -/
def ModeSet (s : State) : Prop := s.ckm = .sum8 ∨ s.ckm = .crc16

/-- A session past the sender's handshake. -/
structure Moded (r : Role) (s : State) : Prop extends Session r s where
  mode : ModeSet s

/-- IDX lies inside the frame at hand (R41). -/
def IdxInFrame (s : State) : Prop := ∀ tl, trailerLength s.ckm = some tl → s.idx.toNat < bsz s + tl

/-- What the classification PEND says of the header bytes of the drained frame (R110, R206). -/
def Classified (p : Pending) (s : State) : Prop :=
  (p = .dup ∨ p = .invalid) ∧ (p = .dup → s.rseq = seqPrev s.seq) ∧
    (p = .invalid → s.rseq = s.seq ∧ s.rcmp ≠ complement s.rseq)

/-- What each wait state asks besides. -/
def AtState (s : State) : FsmState → Prop
  | .txHsWait => s.ckm = .none
  | .txBlkWait => ModeSet s
  | .txEotWait => ModeSet s ∧ (1#8 ≤ s.rtry ∧ s.rtry ≤ s.params.nTxEot) ∧ s.sptr = s.src.length
  | .rxHsWait => ModeSet s ∧ s.rtry < s.params.nRxHs
  | .rxSeq => ModeSet s
  | .rxCmpl => ModeSet s
  | .rxData => ModeSet s ∧ IdxInFrame s ∧ s.rseq = s.seq ∧ s.rcmp = complement s.rseq
  | .rxDrain => ModeSet s ∧ IdxInFrame s ∧ Classified s.pend s
  | .rxNextWait => ModeSet s ∧ s.rtry < s.params.nRxNext
  | .idle => False
  | .done => False
  | .reserved _ => False

theorem reservedField_eq_none_iff (s : State) :
    s.reservedField = none ↔
      s.st.isReserved = false ∧ s.ckm ≠ .reserved ∧ s.pend ≠ .reserved ∧ resultReserved s.result = false := by
  unfold State.reservedField
  split_ifs <;> simp_all

theorem result_not_reserved (c : Cause) : resultReserved c.result = false := by cases c <;> decide

theorem common_of_inv {s : State} (h : Inv s) : Common s := by
  obtain ⟨-, hckm, hpend, -⟩ := (reservedField_eq_none_iff s).mp h.legal
  exact { h with ckmLegal := hckm, pendLegal := hpend }

theorem session_of_inv {s : State} {st : FsmState} {r : Role} (h : Inv s) (hst : s.st = st)
    (hr : waitRole st = some r) : Session r s := by
  have hdone : s.st ≠ .done := by
    intro hd
    rw [← hst, hd] at hr
    cases hr
  exact
    { common_of_inv h with
      role := h.role r (by rw [hst, hr]), errBelow := h.errBelow hdone, noResult := h.noResultYet hdone }

theorem moded_of_inv {s : State} {st : FsmState} {r : Role} (h : Inv s) (hst : s.st = st)
    (hr : waitRole st = some r) (hne : st ≠ .txHsWait) : Moded r s := by
  have hb : s.busy = true := by
    rw [busy_iff, hst]
    constructor <;> rintro rfl <;> cases hr
  exact { session_of_inv h hst hr with mode := h.modeSet hb (by rw [hst]; exact hne) }

/-- A session is in a good state when it meets what holds in every wait state and what its own asks. -/
theorem Session.inv {s : State} {r : Role} (h : Session r s) (hr : waitRole s.st = some r)
    (hd : s.deadline = waitDeadline s.st) (ha : AtState s s.st) : Inv s := by
  have hst : s.st.isReserved = false ∧ s.st ≠ .idle ∧ s.st ≠ .done := by
    cases hs : s.st <;> simp [hs, waitRole, FsmState.isReserved] at hr ⊢
  obtain ⟨hres, hidle, hdone⟩ := hst
  have hat {st : FsmState} (hs : s.st = st) : AtState s st := hs ▸ ha
  exact
    { h with
      legal := (reservedField_eq_none_iff s).mpr ⟨hres, h.ckmLegal, h.pendLegal, by rw [h.noResult]; decide⟩
      errBelow := fun _ => h.errBelow
      errDone := fun hs => absurd hs hdone
      rtryRxHs := fun hs => (hat hs).2
      rtryRxNext := fun hs => (hat hs).2
      rtryTxEot := fun hs => (hat hs).2.1
      role := fun r' hr' => h.role.trans (Option.some.inj (hr.symm.trans hr'))
      modeOpen := hat
      modeSet := fun _ hne => by cases hs : s.st <;> simp_all [AtState, ModeSet]
      idxInFrame := fun hs => hs.elim (fun hs => (hat hs).2.1) (fun hs => (hat hs).2.1)
      pendSet := fun hs => (hat hs).2.2.1
      candidate := fun hs => (hat hs).2.2
      drainedDup := fun hs => (hat hs).2.2.2.1
      drainedInvalid := fun hs => (hat hs).2.2.2.2
      atEnd := fun hs => (hat hs).2.2
      noResultYet := fun _ => h.noResult
      outcome := fun hs => absurd hs hdone
      idleNotCancelled := fun hs => absurd hs hidle
      deadlineRunning := fun _ => hd }

/-- Ending a session is good with any outcome of the session's role (R37, R44). -/
theorem Common.inv_endSession {s : State} {c : Cause} (h : Common s) (he : s.err ≤ s.params.nMaxErr)
    (hc : c ∈ outcomesOfRole s.role) : Inv (endSession c s) :=
  { h with
    legal := (reservedField_eq_none_iff _).mpr ⟨rfl, h.ckmLegal, h.pendLegal, result_not_reserved c⟩
    errBelow := fun hs => absurd rfl hs
    errDone := fun _ => he
    rtryRxHs := nofun, rtryRxNext := nofun, rtryTxEot := nofun, role := nofun, modeOpen := nofun, modeSet := nofun
    idxInFrame := nofun, pendSet := nofun, candidate := nofun, drainedDup := nofun, drainedInvalid := nofun
    atEnd := nofun
    noResultYet := fun hs => absurd rfl hs
    outcome := fun _ => ⟨c, hc, rfl⟩
    idleNotCancelled := nofun, deadlineRunning := nofun }

theorem Common.inv_hardwareReset {s : State} (h : Common s) : Inv (hardwareReset s) :=
  { h with
    legal := (reservedField_eq_none_iff _).mpr ⟨rfl, nofun, nofun, (by decide : resultReserved 0x00#8 = false)⟩
    fbWf := reset_memory_wf
    errBelow := fun _ => (BitVec.pos_iff_ne_zero _).mpr h.params.1
    errDone := nofun, rtryRxHs := nofun, rtryRxNext := nofun, rtryTxEot := nofun, role := nofun, modeOpen := nofun
    modeSet := nofun, idxInFrame := nofun, pendSet := nofun, candidate := nofun, drainedDup := nofun
    drainedInvalid := nofun, sptrInSrc := Nat.zero_le _, atEnd := nofun
    noResultYet := fun _ => rfl
    outcome := nofun
    idleNotCancelled := fun _ => rfl
    deadlineRunning := nofun }

end Sys2Proof.Laws
end

section
/-!
PROOFS. Scope: every step keeps the invariant (spec/10_state.md R37, R49; spec/60_exceptions.md R303, R322), from one
lemma per shared operation of the sender and the receiver.
-/

namespace Sys2Proof.Laws

open Sys2Proof Sys2Proof.Machine Sys2Proof.Config Sys2Proof.Safety

theorem succ_le_of_lt {m n : BitVec 8} (h : m < n) : m + 1#8 ≤ n := by bv_omega

theorem succ_lt_of_lt_of_ne {m n : BitVec 8} (h : m < n) (hne : m + 1#8 ≠ n) : m + 1#8 < n :=
  BitVec.lt_of_le_ne (succ_le_of_lt h) hne

theorem one_le_of_ne_zero {n : BitVec 8} (h : n ≠ 0) : 1#8 ≤ n := by bv_omega

/-- An outcome of the role ends the session well. -/
theorem Session.inv_endSession {s : State} {r : Role} {c : Cause} (h : Session r s) (hc : c ∈ outcomesOfRole r) :
    Inv (endSession c s) :=
  h.toCommon.inv_endSession (BitVec.le_of_lt h.errBelow) (by rw [h.role]; exact hc)

/-- The abort by the error counter, which reaches its bound (R177, R217). -/
theorem Session.inv_errorsExhausted {s : State} {r : Role} {c : Cause} (h : Session r s) (hc : c ∈ outcomesOfRole r) :
    Inv (endSession c (cancelSignal { s with err := s.err + 1#8 })) :=
  Common.inv_endSession (s := cancelSignal { s with err := s.err + 1#8 }) { h with } (succ_le_of_lt h.errBelow)
    (show c ∈ outcomesOfRole s.role by rw [h.role]; exact hc)

/-! The sender. -/

theorem ChunkMove.inv {s t : State} (hm : ChunkMove s t) (h : Moded .sender s) : Inv t := by
  obtain ⟨-, -, -, hEot, -⟩ := h.params
  cases hm with
  | eot heq =>
    exact Session.inv (r := .sender) { h with expiredStarted := nofun } rfl rfl
      ⟨h.mode, ⟨BitVec.le_refl _, one_le_of_ne_zero hEot⟩, heq⟩
  | frame tr hlt htr =>
    have hfits : 0 + (nextPayload s).length ≤ fbSize := by
      have hlen : (nextPayload s).length = bsz s := padded_take_length _ _
      have hsize : bsz s ≤ 1024 := blockSize_le _
      simp only [fbSize]
      omega
    have hptr : s.sptr + min (bsz s) (s.src.length - s.sptr) ≤ s.src.length := by omega
    exact Session.inv (r := .sender)
      { h with fbWf := write_wf _ _ _ h.fbWf hfits, sptrInSrc := hptr, expiredStarted := nofun } rfl rfl h.mode

theorem ErrorMove.inv {s t : State} (hm : ErrorMove s t) (h : Moded .sender s) : Inv t := by
  cases hm with
  | exhausted heq => exact h.toSession.inv_errorsExhausted (c := .txTooManyErrors) (by decide)
  | again tr hne htr =>
    exact Session.inv (r := .sender)
      { h with errBelow := succ_lt_of_lt_of_ne h.errBelow hne, expiredStarted := nofun } rfl rfl h.mode

/-! The receiver. -/

theorem inv_nextWait {s : State} (h : Moded .receiver s) : Inv (nextWait s) := by
  obtain ⟨-, -, hNext, -, -⟩ := h.params
  exact Session.inv (r := .receiver) { h with expiredStarted := nofun } rfl rfl
    ⟨h.mode, (BitVec.pos_iff_ne_zero _).mpr hNext⟩

theorem dvd_blockSize (x : Bool) : 128 ∣ blockSize x := by cases x <;> decide

theorem inv_accepted {s : State} (h : Moded .receiver s) : Inv (accepted s) := by
  have hdst : 128 ∣ (s.dst ++ s.fb.readN 0 (bsz s)).length := by
    rw [List.length_append, readN_length]
    exact Nat.dvd_add h.dstWhole (dvd_blockSize _)
  exact inv_nextWait { h with errBelow := (BitVec.pos_iff_ne_zero _).mpr h.params.1, dstWhole := hdst }

theorem inv_duplicateAnswered {s : State} (h : Moded .receiver s) : Inv (duplicateAnswered s) :=
  inv_nextWait { h with }

theorem inv_invalidAnswered {s : State} (h : Moded .receiver s) : Inv (invalidAnswered s) := by
  unfold invalidAnswered
  split
  · exact h.toSession.inv_errorsExhausted (c := .rxTooManyErrors) (by decide)
  · exact inv_nextWait { h with errBelow := succ_lt_of_lt_of_ne h.errBelow ‹_› }

theorem inv_verified {s : State} (tl : Nat) (h : Moded .receiver s) : Inv (verified tl s) := by
  unfold verified
  split
  · exact inv_accepted h
  · exact inv_invalidAnswered h

/-- A frame begins with IDX 0, inside it (R41). -/
theorem zero_idxInFrame {s : State} (h : s.idx = 0#11) : IdxInFrame s := by
  intro tl htl
  have := (trailerLength_le htl).1
  rw [h, BitVec.toNat_zero]
  omega

theorem inv_rejected {s : State} {p : Pending} (h : Moded .receiver s) (hd : s.deadline = some .rxBlk)
    (hp : Classified p s) : Inv (rejected p s) := by
  unfold rejected
  split
  · have hlegal : p ≠ .reserved := by rcases hp.1 with rfl | rfl <;> decide
    exact Session.inv (r := .receiver) { h with pendLegal := hlegal } rfl hd ⟨h.mode, zero_idxInFrame rfl, hp⟩
  · split
    · exact inv_duplicateAnswered h
    · exact inv_invalidAnswered h

/-- R110, read backwards: what each class says of the two header bytes. -/
theorem classify_spec (s r c : Byte) :
    match classify s r c with
    | .dup => r = seqPrev s
    | .sync => r ≠ s
    | .invalid => r = s ∧ c ≠ complement r
    | .candidate => r = s ∧ c = complement r := by
  unfold classify
  split_ifs with h1 h2 h3 <;> simp_all

theorem inv_complemented {s : State} (h : Moded .receiver s) (hd : s.deadline = some .rxBlk) :
    Inv (complemented s) := by
  have hclass := classify_spec s.seq s.rseq s.rcmp
  unfold complemented
  cases hc : classify s.seq s.rseq s.rcmp <;> rw [hc] at hclass
  case dup => exact inv_rejected h hd ⟨.inl rfl, fun _ => hclass, nofun⟩
  case sync =>
    exact Session.inv_endSession (s := cancelSignal s) (r := .receiver) { h with } (c := .rxSyncLost) (by decide)
  case invalid => exact inv_rejected h hd ⟨.inr rfl, nofun, fun _ => hclass⟩
  case candidate => exact Session.inv (r := .receiver) { h with } rfl hd ⟨h.mode, zero_idxInFrame rfl, hclass⟩

/-- A byte of the frame that is not the last one leaves IDX inside the frame (R41). -/
theorem succ_idxInFrame {s : State} {tl : Nat} (h : IdxInFrame s) (htl : trailerLength s.ckm = some tl)
    (hn : (s.idx + 1#11).toNat ≠ bsz s + tl) : IdxInFrame { s with idx := s.idx + 1#11 } := by
  intro tl' htl'
  obtain rfl : tl = tl' := Option.some.inj (htl.symm.trans htl')
  have hlt := h tl htl
  have hsize : bsz s ≤ 1024 := blockSize_le _
  have htl2 := (trailerLength_le htl).2
  have hsucc : (s.idx + 1#11).toNat = s.idx.toNat + 1 := by
    rw [BitVec.toNat_add]
    exact Nat.mod_eq_of_lt (by simp; omega)
  show (s.idx + 1#11).toNat < bsz s + tl
  omega

/-! The engine. -/

/-- Taking a byte out of RX is no concern of the invariant. -/
theorem Moded.popped {s : State} {r : Role} (h : Moded r s) (rest : List Byte) : Moded r (popped rest s) :=
  { h with }

theorem ByteMove.inv {s t : State} {b : Byte} {rest : List Byte} (hm : ByteMove s b rest t) (h : Inv s) : Inv t := by
  have deadline {st : FsmState} (hst : s.st = st) : s.deadline = waitDeadline st := by
    rw [h.deadlineRunning hm.busy, hst]
  have moded {st : FsmState} {r : Role} (hst : s.st = st) (hr : waitRole st = some r) (hne : st ≠ .txHsWait) :
      Moded r (popped rest s) := (moded_of_inv h hst hr hne).popped rest
  cases hm with
  | discarded => exact { h with }
  | request m t hst hb hc =>
    have hmode : m = .sum8 ∨ m = .crc16 := hb.imp And.right And.right
    have hlegal : m ≠ .reserved := by rcases hmode with rfl | rfl <;> decide
    exact hc.inv { session_of_inv h hst rfl with ckmLegal := hlegal, mode := hmode }
  | acked t hst hb hc =>
    exact hc.inv { moded hst rfl (by decide) with errBelow := (BitVec.pos_iff_ne_zero _).mpr h.params.1 }
  | naked t hst hb hc => exact hc.inv (moded hst rfl (by decide))
  | blockCancelled hst => exact (moded hst rfl (by decide)).inv_endSession (by decide)
  | eotAcked hst => exact (moded hst rfl (by decide)).inv_endSession (by decide)
  | eotCancelled hst => exact (moded hst rfl (by decide)).inv_endSession (by decide)
  | frameStart x hst =>
    have hm : Moded .receiver s :=
      hst.elim (fun hst => moded_of_inv h hst rfl (by decide)) (fun hst => moded_of_inv h hst rfl (by decide))
    exact Session.inv (r := .receiver) { hm with expiredStarted := nofun } rfl rfl hm.mode
  | sequence hst =>
    have hm : Moded .receiver s := moded_of_inv h hst rfl (by decide)
    exact Session.inv (r := .receiver) { hm with } rfl
      (show s.deadline = some .rxBlk from deadline hst) hm.mode
  | complement hst => exact inv_complemented { moded hst rfl (by decide) with } (deadline hst)
  | data tl hst htl hin hn =>
    have hfb : (s.fb.write s.idx.toNat [b]).wf := write_wf _ _ _ h.fbWf hin
    exact
      { h with
        fbWf := hfb
        idxInFrame := fun _ => succ_idxInFrame (h.idxInFrame (.inl hst)) htl hn }
  | lastData tl hst htl hin hn =>
    have hfb : (s.fb.write s.idx.toNat [b]).wf := write_wf _ _ _ h.fbWf hin
    exact inv_verified tl { moded hst rfl (by decide) with fbWf := hfb }
  | drain tl hst htl hn => exact { h with idxInFrame := fun _ => succ_idxInFrame (h.idxInFrame (.inr hst)) htl hn }
  | lastDrainDup tl hst => exact inv_duplicateAnswered { moded hst rfl (by decide) with }
  | lastDrainInvalid tl hst => exact inv_invalidAnswered { moded hst rfl (by decide) with }
  | eotTaken hst =>
    exact Session.inv_endSession (s := emit [ACK] (popped rest s)) { moded hst rfl (by decide) with } (by decide)

theorem ExpiryMove.inv {s t : State} (hm : ExpiryMove s t) (h : Inv s) : Inv t := by
  cases hm with
  | txHs hst => exact (session_of_inv h hst rfl).inv_endSession (by decide)
  | txBlk t hst he => exact he.inv (moded_of_inv h hst rfl (by decide))
  | txEotLast hst hn => exact (session_of_inv h hst rfl).inv_endSession (by decide)
  | txEot hst hn =>
    obtain ⟨-, hle⟩ := h.rtryTxEot hst
    have hnext : s.rtry + 1#8 ≤ s.params.nTxEot := succ_le_of_lt (BitVec.lt_of_le_ne hle hn)
    have hpos : 1#8 ≤ s.rtry + 1#8 := by bv_omega
    have hdl : some TimerSel.txEot = waitDeadline s.st := by rw [hst]; rfl
    exact
      { h with
        rtryRxHs := fun hst' => absurd (hst.symm.trans hst') (by decide)
        rtryRxNext := fun hst' => absurd (hst.symm.trans hst') (by decide)
        rtryTxEot := fun _ => ⟨hpos, hnext⟩
        deadlineRunning := fun _ => hdl
        expiredStarted := nofun }
  | rxHsLast hst hn =>
    exact Session.inv_endSession (s := cancelSignal { s with rtry := s.rtry + 1#8 })
      { session_of_inv h hst rfl with } (c := .rxHsTimeout) (by decide)
  | rxHs hst hn =>
    have hnext := succ_lt_of_lt_of_ne (h.rtryRxHs hst) hn
    exact
      { h with
        rtryRxHs := fun _ => hnext
        rtryRxNext := fun hst' => absurd (hst.symm.trans hst') (by decide)
        rtryTxEot := fun hst' => absurd (hst.symm.trans hst') (by decide)
        deadlineRunning := fun _ => by rw [hst]; rfl
        expiredStarted := nofun }
  | frame hst =>
    have hm : Moded .receiver s := by
      rcases hst with hst | hst | hst <;> exact moded_of_inv h hst rfl (by decide)
    exact inv_invalidAnswered hm
  | drainDup hst => exact inv_duplicateAnswered (moded_of_inv h hst rfl (by decide))
  | drainInvalid hst => exact inv_invalidAnswered (moded_of_inv h hst rfl (by decide))
  | rxNextLast hst hn =>
    exact Session.inv_endSession (s := cancelSignal { s with rtry := s.rtry + 1#8 })
      { session_of_inv h hst rfl with } (c := .rxNoData) (by decide)
  | rxNext hst hn =>
    have hnext := succ_lt_of_lt_of_ne (h.rtryRxNext hst) hn
    exact
      { h with
        rtryRxHs := fun hst' => absurd (hst.symm.trans hst') (by decide)
        rtryRxNext := fun _ => hnext
        rtryTxEot := fun hst' => absurd (hst.symm.trans hst') (by decide)
        deadlineRunning := fun _ => by rw [hst]; rfl
        expiredStarted := nofun }

/-- The cancel rule ends a session of either role (R258). -/
theorem inv_localCancel {s : State} (h : Inv s) (hb : s.busy = true) :
    Inv (endSession .localCancel (cancelSignal s)) := by
  have hdone := (busy_iff.mp hb).2
  refine Common.inv_endSession (s := cancelSignal s) { common_of_inv h with }
    (BitVec.le_of_lt (h.errBelow hdone)) ?_
  show Cause.localCancel ∈ outcomesOfRole s.role
  cases s.role <;> decide

theorem EngineMove.inv {s t : State} (hm : EngineMove s t) (h : Inv s) : Inv t := by
  cases hm with
  | byte b rest t hrx hm => exact hm.inv h
  | expiry t hrx he hm => exact hm.inv h
  | cancel hb => exact inv_localCancel h hb
  | quiet | nothing => exact h

theorem Started.inv {s t : State} (hm : Started s t) (h : Common s) : Inv t := by
  obtain ⟨hMaxErr, hRxHs, -, -, -⟩ := h.params
  have herr : 0x00#8 < s.params.nMaxErr := (BitVec.pos_iff_ne_zero _).mpr hMaxErr
  have hretry : 0x00#8 < s.params.nRxHs := (BitVec.pos_iff_ne_zero _).mpr hRxHs
  cases hm with
  | send opt hl =>
    exact Session.inv (r := .sender)
      { h with
        ckmLegal := nofun, pendLegal := nofun, sptrInSrc := Nat.zero_le _, srcFits := hl, expiredStarted := nofun
        role := rfl, errBelow := herr, noResult := rfl } rfl rfl rfl
  | receive opt =>
    have hmode : ModeSet (startReceive opt s) := by cases opt <;> simp [ModeSet, startReceive, rxHsEntry]
    exact Session.inv (r := .receiver)
      { h with
        ckmLegal := by cases opt <;> exact nofun
        pendLegal := nofun, sptrInSrc := Nat.zero_le _, expiredStarted := nofun, dstWhole := Nat.dvd_zero _
        role := rfl, errBelow := herr, noResult := rfl } rfl rfl ⟨hmode, hretry⟩

/-- Settles O34, by the kind of step. -/
theorem everyStepKeepsInvariant : Obligations.EveryStepKeepsInvariant := by
  intro s t h hstep
  have hs : Inv { s with sched := s.sched.rest } := { h with }
  cases step_kind hstep with
  | reset => exact (common_of_inv hs).inv_hardwareReset
  | start t _ hb ht => exact ht.inv (common_of_inv hs)
  | latch w opt _ _ hb => exact { h with idleNotCancelled := fun hst => absurd hst (busy_iff.mp hb).1 }
  | engine t _ hb hm => exact hm.inv hs
  | quiet arrived srcPort expired hs he =>
    exact { h with expiredStarted := fun hexp => he.elim (fun he => h.expiredStarted (he ▸ hexp)) id }

end Sys2Proof.Laws
end

section
/-!
PROOFS. Scope: what a step does to the session's registers ROLE, BLK1K, CKM, SEQ, CXL and RESULT (spec/10_state.md R33,
R34, R38, R39, R44, R45), from one lemma about the engine's transitions and the kinds of step.
-/

namespace Sys2Proof.Laws

open Sys2Proof Sys2Proof.Machine Sys2Proof.Config Sys2Proof.Safety

/-! The engine. -/

theorem invalidAnswered_result_or_done (s : State) :
    (invalidAnswered s).result = s.result ∨ (invalidAnswered s).st = .done := by
  unfold invalidAnswered
  split
  · exact .inr rfl
  · exact .inl rfl

theorem rejected_result_or_done (p : Pending) (s : State) :
    (rejected p s).result = s.result ∨ (rejected p s).st = .done := by
  unfold rejected
  split
  · exact .inl rfl
  · split
    · exact .inl rfl
    · exact invalidAnswered_result_or_done s

theorem complemented_result_or_done (s : State) :
    (complemented s).result = s.result ∨ (complemented s).st = .done := by
  unfold complemented
  cases classify s.seq s.rseq s.rcmp
  case dup => exact rejected_result_or_done .dup s
  case sync => exact .inr rfl
  case invalid => exact rejected_result_or_done .invalid s
  case candidate => exact .inl rfl

theorem verified_result_or_done (tl : Nat) (s : State) :
    (verified tl s).result = s.result ∨ (verified tl s).st = .done := by
  unfold verified
  split
  · exact .inl rfl
  · exact invalidAnswered_result_or_done s

/-- What the engine can do to these registers but SEQ: RESULT changes in the step that enters DONE only, BLK1K at a
frame's header only, CKM at the end of the sender's handshake only. -/
structure EngineKeeps (s t : State) : Prop where
  role : t.role = s.role
  cxl : t.cxl = s.cxl
  result : t.result = s.result ∨ t.st = .done
  size : t.blk1k = s.blk1k ∨ s.st = .rxHsWait ∨ s.st = .rxNextWait
  mode : t.ckm = s.ckm ∨ s.st = .txHsWait ∧ (t.ckm = .sum8 ∨ t.ckm = .crc16)

theorem engineKeeps_invalidAnswered (s : State) : EngineKeeps s (invalidAnswered s) :=
  ⟨invalidAnswered_role s, invalidAnswered_cxl s, invalidAnswered_result_or_done s, .inl (invalidAnswered_blk1k s),
    .inl (invalidAnswered_ckm s)⟩

theorem ChunkMove.registers {s t : State} (h : ChunkMove s t) :
    t.role = s.role ∧ t.cxl = s.cxl ∧ t.result = s.result ∧ t.blk1k = s.blk1k ∧ t.ckm = s.ckm ∧
      t.seq = s.seq := by
  cases h <;> exact ⟨rfl, rfl, rfl, rfl, rfl, rfl⟩

theorem ErrorMove.engineKeeps {s t : State} (h : ErrorMove s t) : EngineKeeps s t := by
  cases h with
  | exhausted => exact ⟨rfl, rfl, .inr rfl, .inl rfl, .inl rfl⟩
  | again => exact ⟨rfl, rfl, .inl rfl, .inl rfl, .inl rfl⟩

theorem ByteMove.engineKeeps {s t : State} {b : Byte} {rest : List Byte} (h : ByteMove s b rest t) :
    EngineKeeps s t := by
  cases h with
  | request m t hst hb hc =>
    obtain ⟨hrole, hcxl, hres, hsize, hmode, -⟩ := hc.registers
    exact ⟨hrole, hcxl, .inl hres, .inl hsize, .inr ⟨hst, hmode ▸ hb.imp And.right And.right⟩⟩
  | acked t hst hb hc =>
    obtain ⟨hrole, hcxl, hres, hsize, hmode, -⟩ := hc.registers
    exact ⟨hrole, hcxl, .inl hres, .inl hsize, .inl hmode⟩
  | naked t hst hb hc => exact { hc.engineKeeps with }
  | frameStart x hst => exact ⟨rfl, rfl, .inl rfl, .inr hst, .inl rfl⟩
  | complement =>
    exact ⟨complemented_role _, complemented_cxl _, complemented_result_or_done _, .inl (complemented_blk1k _),
      .inl (complemented_ckm _)⟩
  | lastData tl =>
    exact ⟨verified_role _ _, verified_cxl _ _, verified_result_or_done _ _, .inl (verified_blk1k _ _),
      .inl (verified_ckm _ _)⟩
  | lastDrainInvalid => exact { engineKeeps_invalidAnswered { popped rest s with idx := s.idx + 1#11 } with }
  | blockCancelled | eotAcked | eotCancelled | eotTaken => exact ⟨rfl, rfl, .inr rfl, .inl rfl, .inl rfl⟩
  | discarded | sequence | data | drain | lastDrainDup => exact ⟨rfl, rfl, .inl rfl, .inl rfl, .inl rfl⟩

theorem ExpiryMove.engineKeeps {s t : State} (h : ExpiryMove s t) : EngineKeeps s t := by
  cases h with
  | txBlk t hst he => exact he.engineKeeps
  | frame | drainInvalid => exact engineKeeps_invalidAnswered s
  | txHs | txEotLast | rxHsLast | rxNextLast => exact ⟨rfl, rfl, .inr rfl, .inl rfl, .inl rfl⟩
  | txEot | rxHs | drainDup | rxNext => exact ⟨rfl, rfl, .inl rfl, .inl rfl, .inl rfl⟩

theorem EngineMove.engineKeeps {s t : State} (h : EngineMove s t) : EngineKeeps s t := by
  cases h with
  | byte b rest t hrx hm => exact hm.engineKeeps
  | expiry t hrx he hm => exact hm.engineKeeps
  | cancel => exact ⟨rfl, rfl, .inr rfl, .inl rfl, .inl rfl⟩
  | quiet | nothing => exact ⟨rfl, rfl, .inl rfl, .inl rfl, .inl rfl⟩

/-! Session starts. -/

theorem not_startsOrResets_of_busy {s t : State} (hs : s.sched.next ≠ .reset) (hb : s.busy = true) :
    ¬ startsOrResets s t := by
  rintro (⟨hidle, -⟩ | hreset)
  · simp [hb] at hidle
  · exact hs hreset

theorem not_startsOrResets_of_st {s t : State} (hs : s.sched.next ≠ .reset) (hst : t.st = s.st) :
    ¬ startsOrResets s t := by
  rintro (⟨hidle, hbusy⟩ | hreset)
  · have hb : t.busy = s.busy := by rw [State.busy, State.busy, hst]
    rw [hb, hidle] at hbusy
    cases hbusy
  · exact hs hreset

theorem Started.registers {s t : State} (h : Started s t) :
    (t.st = .txHsWait ∨ t.st = .rxHsWait) ∧ t.result = 0x00#8 ∧ t.cxl = false ∧ t.seq = 0x01#8 := by
  cases h with
  | send => exact ⟨.inl rfl, rfl, rfl, rfl⟩
  | receive => exact ⟨.inr rfl, rfl, rfl, rfl⟩

theorem Started.busy {s t : State} (h : Started s t) : t.busy = true := by
  rw [busy_iff]
  rcases h.registers.1 with hst | hst <;> simp [hst]

/-- Settles O38, by the kind of step. -/
theorem resultChangesOnlyAtEndStartReset : Obligations.ResultChangesOnlyAtEndStartReset := by
  intro s t h
  cases step_kind h with
  | reset hs => exact ⟨fun _ => rfl, fun _ => .inr (.inl ⟨hs, rfl⟩)⟩
  | start t hs hb ht =>
    obtain ⟨hst, hres, -, -⟩ := ht.registers
    exact ⟨fun _ => hres, fun _ => .inr (.inr ⟨hb, hst⟩)⟩
  | latch w opt hs hw hb =>
    exact ⟨fun hx => absurd hx (not_startsOrResets_of_busy (by simp [hs]) hb), fun hne => absurd rfl hne⟩
  | engine t hs hb hm =>
    exact ⟨fun hx => absurd hx (not_startsOrResets_of_busy (by simp [hs]) hb),
      fun hne => .inl ⟨hb, hm.engineKeeps.result.resolve_left hne⟩⟩
  | quiet arrived srcPort expired hs =>
    exact ⟨fun hx => absurd hx (not_startsOrResets_of_st hs rfl), fun hne => absurd rfl hne⟩

/-- Settles O44, by the kind of step. -/
theorem cancellationLatchHolds : Obligations.CancellationLatchHolds := by
  intro s t h
  cases step_kind h with
  | reset hs => exact ⟨nofun, fun _ => rfl, fun _ _ => .inr hs⟩
  | start t hs hb ht =>
    have hcxl : t.cxl = false := ht.registers.2.2.1
    exact ⟨fun _ hset => absurd (hcxl.symm.trans hset) nofun, fun _ => hcxl, fun _ _ => .inl ⟨hb, ht.busy⟩⟩
  | latch w opt hs hw hb =>
    exact ⟨fun _ _ => ⟨hb, w, opt, hs, hw⟩,
      fun hx => absurd hx (not_startsOrResets_of_busy (by simp [hs]) hb), nofun⟩
  | engine t hs hb hm =>
    have hcxl : t.cxl = s.cxl := hm.engineKeeps.cxl
    exact ⟨fun h0 h1 => by simp [hcxl, h0] at h1,
      fun hx => absurd hx (not_startsOrResets_of_busy (by simp [hs]) hb), fun h1 h0 => by simp [hcxl, h1] at h0⟩
  | quiet arrived srcPort expired hs =>
    exact ⟨fun h0 h1 => absurd (h0.symm.trans h1) nofun, fun hx => absurd hx (not_startsOrResets_of_st hs rfl),
      fun h1 h0 => absurd (h0.symm.trans h1) nofun⟩

/-- Settles O43: while BUSY only the engine writes these registers, and only a receiver reads a frame's header. -/
theorem formatIsFixedForTheSession : Obligations.FormatIsFixedForTheSession := by
  intro s t hinv h hb hs
  cases step_kind h with
  | reset hs' => exact absurd hs' hs
  | start t _ hb' => simp [hb] at hb'
  | engine t _ _ hm =>
    obtain ⟨hrole, -, -, hsize, hmode⟩ := hm.engineKeeps
    have receives (hst : s.st = .rxHsWait ∨ s.st = .rxNextWait) : s.role = .receiver :=
      hst.elim (fun hst => (session_of_inv hinv hst rfl).role) (fun hst => (session_of_inv hinv hst rfl).role)
    exact ⟨hrole, fun hsender => hsize.resolve_right fun hst => absurd (hsender.symm.trans (receives hst)) nofun,
      hmode.imp_right fun ⟨hst, hm⟩ => ⟨hst, hinv.modeOpen hst, hm⟩⟩
  | latch | quiet => exact ⟨rfl, fun _ => rfl, .inl rfl⟩

/-! SEQ. -/

/-- SEQ advances where a block succeeds, and only there. -/
def SeqFollowsBlock (s t : State) : Prop :=
  blockSucceeds s t ∧ t.seq = s.seq + 1#8 ∨ ¬ blockSucceeds s t ∧ t.seq = s.seq

theorem not_blockSucceeds_of_st {s t : State} (h1 : s.st ≠ .txBlkWait) (h2 : s.st ≠ .rxData) :
    ¬ blockSucceeds s t := by
  rintro (⟨hst, -⟩ | ⟨hst, -⟩)
  · exact h1 hst
  · exact h2 hst

/-- A byte other than ACK at the head of RX is no success of the sender. -/
theorem not_blockSucceeds_of_byte {s t : State} {b : Byte} {rest : List Byte} (hst : s.st = .txBlkWait)
    (hrx : s.rx = b :: rest) (hb : b ≠ ACK) : ¬ blockSucceeds s t := by
  rintro (⟨-, rest', hack, -⟩ | ⟨hdata, -⟩)
  · rw [hrx] at hack
    exact hb (List.cons.inj hack).1
  · simp [hst] at hdata

/-- A step that takes no byte and enters no other wait state is no success. -/
theorem not_blockSucceeds_of_kept {s t : State} (hrx : ∃ arrived, t.rx = s.rx ++ arrived)
    (hst : t.st = s.st ∨ t.st ≠ .rxNextWait) : ¬ blockSucceeds s t := by
  obtain ⟨arrived, hrx⟩ := hrx
  rintro (⟨-, rest, hack, htaken⟩ | ⟨hdata, hnext, -⟩)
  · rw [hrx, hack] at htaken
    have := congrArg List.length htaken
    simp at this
    omega
  · rcases hst with hst | hst
    · simp [hst, hdata] at hnext
    · exact hst hnext

/-- A frame answered as invalid is no success: it emits NAK, or ends the session. -/
theorem not_blockSucceeds_invalidAnswered {s u : State} (hst : s.st ≠ .txBlkWait) (htx : u.tx = s.tx) :
    ¬ blockSucceeds s (invalidAnswered u) := by
  rintro (⟨hblk, -⟩ | ⟨-, hnext, hack⟩)
  · exact hst hblk
  · unfold invalidAnswered at hnext hack
    split at hnext
    · cases hnext
    · rename_i hn
      rw [if_neg hn] at hack
      have : u.tx ++ [NAK] = s.tx ++ [0x06#8] := hack
      rw [htx] at this
      exact absurd (List.append_cancel_left this) (by decide)

theorem ErrorMove.seq_eq {s t : State} (h : ErrorMove s t) : t.seq = s.seq := by
  cases h <;> rfl

theorem ByteMove.seqFollowsBlock {s t : State} {b : Byte} {rest : List Byte} (hrx : s.rx = b :: rest)
    (h : ByteMove s b rest t) : SeqFollowsBlock s t := by
  cases h with
  | discarded ho hb =>
    refine .inr ⟨?_, rfl⟩
    by_cases hst : s.st = .txBlkWait
    · exact not_blockSucceeds_of_byte hst hrx (by rintro rfl; rw [hst] at hb; exact hb (by decide))
    · exact not_blockSucceeds_of_st hst (by intro hd; rw [hd] at ho; exact ho)
  | request m t hst hb hc =>
    exact .inr ⟨not_blockSucceeds_of_st (by simp [hst]) (by simp [hst]), hc.registers.2.2.2.2.2⟩
  | acked t hst hb hc =>
    subst hb
    exact .inl ⟨.inl ⟨hst, rest, hrx, hc.kept.1⟩, hc.registers.2.2.2.2.2⟩
  | naked t hst hb hc => exact .inr ⟨not_blockSucceeds_of_byte hst hrx (by rw [hb]; decide), hc.seq_eq⟩
  | blockCancelled hst hb => exact .inr ⟨not_blockSucceeds_of_byte hst hrx (by rw [hb]; decide), rfl⟩
  | complement hst => exact .inr ⟨not_blockSucceeds_of_st (by simp [hst]) (by simp [hst]), complemented_seq _⟩
  | data tl hst =>
    refine .inr ⟨?_, rfl⟩
    rintro (⟨hblk, -⟩ | ⟨-, hnext, -⟩)
    · simp [hst] at hblk
    · exact absurd (hst.symm.trans hnext) nofun
  | lastData tl hst =>
    unfold verified
    split
    · exact .inl ⟨.inr ⟨hst, rfl, rfl⟩, rfl⟩
    · exact .inr ⟨not_blockSucceeds_invalidAnswered (by simp [hst]) rfl, invalidAnswered_seq _⟩
  | lastDrainInvalid tl hst =>
    exact .inr ⟨not_blockSucceeds_of_st (by simp [hst]) (by simp [hst]), invalidAnswered_seq _⟩
  | frameStart x hst =>
    exact .inr ⟨not_blockSucceeds_of_st (by rcases hst with hst | hst <;> simp [hst])
      (by rcases hst with hst | hst <;> simp [hst]), rfl⟩
  | eotAcked hst | eotCancelled hst | sequence hst | drain _ hst | lastDrainDup _ hst | eotTaken hst =>
    exact .inr ⟨not_blockSucceeds_of_st (by simp [hst]) (by simp [hst]), rfl⟩

theorem ExpiryMove.seq_eq {s t : State} (h : ExpiryMove s t) : t.seq = s.seq := by
  cases h with
  | txBlk t hst he => exact he.seq_eq
  | frame | drainInvalid => exact invalidAnswered_seq s
  | txHs | txEotLast | txEot | rxHsLast | rxHs | drainDup | rxNextLast | rxNext => rfl

/-- An expiry is served with RX empty, and no frame is accepted by it. -/
theorem ExpiryMove.not_blockSucceeds {s t : State} (h : ExpiryMove s t) : ¬ blockSucceeds s t := by
  have hrx : ∃ arrived, t.rx = s.rx ++ arrived := ⟨[], by rw [h.kept.1, List.append_nil]⟩
  cases h with
  | frame hst => exact not_blockSucceeds_invalidAnswered (by rcases hst with hst | hst | hst <;> simp [hst]) rfl
  | drainDup hst | drainInvalid hst => exact not_blockSucceeds_of_st (by simp [hst]) (by simp [hst])
  | txBlk t hst he =>
    exact not_blockSucceeds_of_kept hrx (.inr (by cases he <;> nofun))
  | txHs | txEotLast | rxHsLast | rxNextLast => exact not_blockSucceeds_of_kept hrx (.inr nofun)
  | txEot | rxHs | rxNext => exact not_blockSucceeds_of_kept hrx (.inl rfl)

theorem EngineMove.seqFollowsBlock {s t : State} (h : EngineMove s t) : SeqFollowsBlock s t := by
  have hrx : ∃ arrived, s.rx = s.rx ++ arrived := ⟨[], (List.append_nil _).symm⟩
  cases h with
  | byte b rest t hrx hm => exact hm.seqFollowsBlock hrx
  | expiry t _ he hm => exact .inr ⟨hm.not_blockSucceeds, hm.seq_eq⟩
  | cancel => exact .inr ⟨not_blockSucceeds_of_kept hrx (.inr nofun), rfl⟩
  | quiet | nothing => exact .inr ⟨not_blockSucceeds_of_kept hrx (.inl rfl), rfl⟩

/-- Settles O40, by the kind of step. -/
theorem sequenceAdvancesOnlyOnSuccess : Obligations.SequenceAdvancesOnlyOnSuccess := by
  intro s t h
  have hrx : ∃ arrived, s.rx = s.rx ++ arrived := ⟨[], (List.append_nil _).symm⟩
  cases step_kind h with
  | reset hs =>
    exact ⟨fun hok => absurd hok (not_blockSucceeds_of_kept hrx (.inr nofun)), fun _ => rfl,
      fun _ hx => absurd (.inr hs) hx⟩
  | start t hs hb ht =>
    have hst : s.st ≠ .txBlkWait ∧ s.st ≠ .rxData := by
      rcases not_busy_iff.mp hb with hst | hst <;> simp [hst]
    exact ⟨fun hok => absurd hok (not_blockSucceeds_of_st hst.1 hst.2), fun _ => ht.registers.2.2.2,
      fun _ hx => absurd (.inl ⟨hb, ht.busy⟩) hx⟩
  | latch w opt hs hw hb =>
    exact ⟨fun hok => absurd hok (not_blockSucceeds_of_kept hrx (.inl rfl)),
      fun hx => absurd hx (not_startsOrResets_of_busy (by simp [hs]) hb), fun _ _ => rfl⟩
  | engine t hs hb hm =>
    have hseq : SeqFollowsBlock s t := hm.seqFollowsBlock
    exact ⟨fun hok => (hseq.resolve_right (fun hno => hno.1 hok)).2,
      fun hx => absurd hx (not_startsOrResets_of_busy (by simp [hs]) hb),
      fun hno _ => (hseq.resolve_left (fun hok => hno hok.1)).2⟩
  | quiet arrived srcPort expired hs =>
    exact ⟨fun hok => absurd hok (not_blockSucceeds_of_kept ⟨arrived, rfl⟩ (.inl rfl)),
      fun hx => absurd hx (not_startsOrResets_of_st hs rfl), fun _ _ => rfl⟩

end Sys2Proof.Laws
end

section
/-!
PROOFS. Scope: which bytes of the frame buffer an instruction can change (spec/10_state.md R47, spec/20_memory.md R74).
-/

namespace Sys2Proof.Laws

open Sys2Proof Sys2Proof.Machine Sys2Proof.Config Sys2Proof.Safety

/-- The rule leaves FB as it was. -/
def KeepsFb (f : State → Result) : Prop := ∀ s t : State, f s = .next t → t.fb = s.fb

/-- The rule leaves FB from BSZ up as it was. -/
def KeepsFbTail (f : State → Result) : Prop :=
  ∀ s t : State, f s = .next t → ∀ a, bsz s ≤ a → t.fb.read a = s.fb.read a

theorem KeepsFb.tail {f : State → Result} (h : KeepsFb f) : KeepsFbTail f := by
  intro s t ht a _
  rw [h s t ht]

theorem takeByte_keepsFb {k : State → Result} (b : Byte) (h : KeepsFb k) : KeepsFb (takeByte b k) := by
  intro s t ht
  obtain ⟨rest, -, hk⟩ := takeByte_next ht
  exact h { s with rx := rest } t hk

theorem takeByte_keepsFbTail {k : State → Result} (b : Byte) (h : KeepsFbTail k) : KeepsFbTail (takeByte b k) := by
  intro s t ht
  obtain ⟨rest, -, hk⟩ := takeByte_next ht
  exact h { s with rx := rest } t hk

/-! The rules of the wire bytes. -/

theorem discardByte_keepsFb : KeepsFb discardByte := by rintro s _ ⟨⟩; rfl

theorem endSession_keepsFb (c : Cause) : KeepsFb (fun s => .next (endSession c s)) := by rintro s _ ⟨⟩; rfl

theorem eotTaken_keepsFb : KeepsFb eotTaken := by rintro s _ ⟨⟩; rfl

theorem beginFrame_keepsFb (x : Bool) : KeepsFb (beginFrame x) := by rintro s _ ⟨⟩; rfl

theorem sequenceByte_keepsFb (b : Byte) : KeepsFb (sequenceByte b) := by rintro s _ ⟨⟩; rfl

theorem complementByte_keepsFb (b : Byte) : KeepsFb (complementByte b) := by
  intro s t h
  rw [complementByte_eq] at h
  cases h
  exact complemented_fb _

theorem respondPending_keepsFb : KeepsFb respondPending := by
  intro s t h
  rcases respondPending_next h with ⟨-, rfl⟩ | ⟨-, rfl⟩
  · rfl
  · exact invalidAnswered_fb s

theorem drainByte_keepsFb : KeepsFb drainByte := by
  intro s t h
  obtain ⟨tl, -, ⟨-, hr⟩ | ⟨-, rfl⟩⟩ := drainByte_next h
  · exact respondPending_keepsFb { s with idx := s.idx + 1#11 } t hr
  · rfl

theorem blockError_keepsFb : KeepsFb blockError := by
  intro s t h
  cases blockError_move h <;> rfl

/-- A chunk is laid out at 0 to BSZ - 1 (R171). -/
theorem nextChunk_keepsFbTail : KeepsFbTail nextChunk := by
  intro s t h a ha
  cases nextChunk_move h with
  | eot => rfl
  | frame tr hlt htr =>
    have hlen : (nextPayload s).length = bsz s := padded_take_length _ _
    exact read_write_outside s.fb 0 (nextPayload s) a (.inr (by omega))

theorem requestTaken_keepsFbTail (m : ChecksumMode) : KeepsFbTail (requestTaken m) :=
  fun s => nextChunk_keepsFbTail { s with ckm := m }

theorem blockAcked_keepsFbTail : KeepsFbTail blockAcked :=
  fun s => nextChunk_keepsFbTail { s with seq := seqNext s.seq, err := 0x00#8 }

/-- A data byte is stored at IDX and nowhere else (R208). -/
theorem dataByte_keepsFbElsewhere {b : Byte} {s t : State} (h : dataByte b s = .next t) (a : Nat)
    (ha : a ≠ s.idx.toNat) : t.fb.read a = s.fb.read a := by
  obtain ⟨tl, -, -, rfl⟩ := dataByte_next h
  have hfb : (if (s.idx + 1#11).toNat = bsz s + tl then verified tl (stored b s) else stored b s).fb =
      s.fb.write s.idx.toNat [b] := by
    split
    · exact verified_fb tl (stored b s)
    · rfl
  rw [hfb]
  exact read_write_outside s.fb s.idx.toNat [b] a (by simp only [List.length_singleton]; omega)

/-! The instructions. -/

/-- Only the bytes the state stores are changed from s to t. -/
structure FbFrame (s t : State) : Prop where
  data : s.st = .rxData → ∀ a, a ≠ s.idx.toNat → t.fb.read a = s.fb.read a
  chunk : s.st = .txHsWait ∨ s.st = .txBlkWait → ∀ a, bsz s ≤ a → t.fb.read a = s.fb.read a
  other : s.st ≠ .rxData → s.st ≠ .txHsWait → s.st ≠ .txBlkWait → t.fb = s.fb

theorem fbFrame_of_eq {s t : State} (h : t.fb = s.fb) : FbFrame s t :=
  ⟨fun _ _ _ => by rw [h], fun _ _ _ => by rw [h], fun _ _ _ => h⟩

theorem fbFrame_of_tail {s t : State} (hst : s.st = .txHsWait ∨ s.st = .txBlkWait)
    (h : ∀ a, bsz s ≤ a → t.fb.read a = s.fb.read a) : FbFrame s t :=
  ⟨fun hd => by rcases hst with hst | hst <;> simp [hst] at hd, fun _ => h,
    fun _ h1 h2 => (hst.elim h1 h2).elim⟩

theorem eventColumn_fbFrame {b : Byte} {f1 f2 f3 f4 f5 : State → Result} {s t : State} (h1 : KeepsFbTail f1)
    (h2 : KeepsFbTail f2) (h3 : KeepsFb f3) (h4 : KeepsFb f4) (h5 : KeepsFb f5)
    (h : eventColumn b f1 f2 f3 f4 f5 s = .next t) : FbFrame s t := by
  unfold eventColumn at h
  cases hst : s.st <;> simp only [hst] at h
  case txHsWait => exact fbFrame_of_tail (.inl hst) (takeByte_keepsFbTail b h1 s t h)
  case txBlkWait => exact fbFrame_of_tail (.inr hst) (takeByte_keepsFbTail b h2 s t h)
  case txEotWait => exact fbFrame_of_eq (takeByte_keepsFb b h3 s t h)
  case rxHsWait => exact fbFrame_of_eq (takeByte_keepsFb b h4 s t h)
  case rxSeq => exact fbFrame_of_eq (takeByte_keepsFb b (sequenceByte_keepsFb b) s t h)
  case rxCmpl => exact fbFrame_of_eq (takeByte_keepsFb b (complementByte_keepsFb b) s t h)
  case rxData =>
    obtain ⟨rest, -, hk⟩ := takeByte_next h
    have helse := dataByte_keepsFbElsewhere (s := { s with rx := rest }) hk
    exact ⟨fun _ => helse, fun hs => by simp [hst] at hs, fun hs => absurd hst hs⟩
  case rxDrain => exact fbFrame_of_eq (takeByte_keepsFb b drainByte_keepsFb s t h)
  case rxNextWait => exact fbFrame_of_eq (takeByte_keepsFb b h5 s t h)
  case idle => cases h; exact fbFrame_of_eq rfl
  case done => cases h; exact fbFrame_of_eq rfl
  case reserved => cases h

theorem command_keepsFb {i : Instr} {s t : State} (hi : i.port = .command) (h : exec i s = .next t) :
    t.fb = s.fb := by
  cases i with
  | nop opt => cases h; rfl
  | send opt =>
    simp only [exec, execSend] at h
    split at h
    · cases h; rfl
    · split at h
      · cases h; rfl
      · cases h
  | receive opt =>
    simp only [exec, execReceive] at h
    split at h <;> cases h <;> rfl
  | cancel opt =>
    simp only [exec, execCancel] at h
    split at h <;> cases h <;> rfl
  | soh | stx | eot | ack | nak | can | cpmeof | crq | other => cases hi

theorem exec_fbFrame {i : Instr} {s t : State} (h : exec i s = .next t) : FbFrame s t := by
  have disc := discardByte_keepsFb
  cases i with
  | soh => exact eventColumn_fbFrame disc.tail disc.tail disc (beginFrame_keepsFb _) (beginFrame_keepsFb _) h
  | stx => exact eventColumn_fbFrame disc.tail disc.tail disc (beginFrame_keepsFb _) (beginFrame_keepsFb _) h
  | eot => exact eventColumn_fbFrame disc.tail disc.tail disc disc eotTaken_keepsFb h
  | ack => exact eventColumn_fbFrame disc.tail blockAcked_keepsFbTail (endSession_keepsFb _) disc disc h
  | nak => exact eventColumn_fbFrame (requestTaken_keepsFbTail _) blockError_keepsFb.tail disc disc disc h
  | can => exact eventColumn_fbFrame disc.tail (endSession_keepsFb _).tail (endSession_keepsFb _) disc disc h
  | cpmeof => exact eventColumn_fbFrame disc.tail disc.tail disc disc disc h
  | crq => exact eventColumn_fbFrame (requestTaken_keepsFbTail _) disc.tail disc disc disc h
  | other b => exact eventColumn_fbFrame disc.tail disc.tail disc disc disc h
  | nop | send | receive | cancel => exact fbFrame_of_eq (command_keepsFb rfl h)

/-- Settles O30: the frame of each wire byte's column, and that no command writes FB. -/
theorem frameBufferChangesOnlyWhereStored : Obligations.FrameBufferChangesOnlyWhereStored := by
  intro i s t h
  obtain ⟨hdata, hchunk, hother⟩ := exec_fbFrame h
  exact ⟨hdata, hchunk, hother, fun hi => command_keepsFb hi h⟩

end Sys2Proof.Laws
end

section
/-!
PROOFS. Scope: no step depends on what FB, RSEQ and RCMP hold from before (spec/10_state.md R42, R47): one lemma per
rule of the machine, that it answers alike from two states that differ only there.
-/

namespace Sys2Proof.Laws

open Sys2Proof Sys2Proof.Machine Sys2Proof.Config Sys2Proof.Safety

/-- The state with other contents of FB, RSEQ and RCMP. -/
def withLeftovers (fb : Memory) (q c : Byte) (s : State) : State := { s with fb := fb, rseq := q, rcmp := c }

theorem exists_withLeftovers {s s' : State} (h : SameButLeftovers s s') : ∃ fb q c, s' = withLeftovers fb q c s :=
  ⟨s'.fb, s'.rseq, s'.rcmp, h.fields⟩

/-- No rule of these states reads a byte or register written before the state was entered. -/
def Forgets (st : FsmState) : Prop := st ≠ .txBlkWait ∧ st ≠ .rxData ∧ st ≠ .rxCmpl

theorem same_of_forgets {t : State} (fb : Memory) (q c : Byte) (h : Forgets t.st) :
    SameButLeftovers t (withLeftovers fb q c t) := by
  obtain ⟨hsend, hdata, hcmpl⟩ := h
  exact ⟨rfl, fun hst => absurd hst hsend, fun hst => absurd hst hdata, fun hst => absurd hst hcmpl⟩

/-- A change that keeps ST, IDX, BLK1K, FB and RSEQ keeps the relation. -/
theorem same_of_kept {s t : State} {fb : Memory} {q c : Byte} (h : SameButLeftovers s (withLeftovers fb q c s))
    (hst : t.st = s.st) (hidx : t.idx = s.idx) (hsize : t.blk1k = s.blk1k) (hfb : t.fb = s.fb)
    (hrseq : t.rseq = s.rseq) : SameButLeftovers t (withLeftovers fb q c t) where
  fields := rfl
  sending := fun ht => by
    have hb : bsz t = bsz s := by rw [bsz, bsz, hsize]
    rw [hfb, hb]
    exact h.sending (hst ▸ ht)
  receiving := fun ht => by
    rw [hfb, hidx]
    exact h.receiving (hst ▸ ht)
  sequence := fun ht => by
    rw [hrseq]
    exact h.sequence (hst ▸ ht)

/-- Where the first answer is a next state, so is the second, and the two states differ only in leftovers. -/
def SameAfter (r r' : Result) : Prop := ∀ t, r = .next t → ∃ t', r' = .next t' ∧ SameButLeftovers t t'

theorem sameAfter_next {t t' : State} (h : SameButLeftovers t t') : SameAfter (.next t) (.next t') := by
  rintro _ ⟨⟩
  exact ⟨t', rfl, h⟩

theorem sameAfter_fault (f : Fault) (r : Result) : SameAfter (.fault f) r := by rintro t ⟨⟩

theorem sameAfter_refused (f : Refusal) (r : Result) : SameAfter (.refused f) r := by rintro t ⟨⟩

/-- A rule of the wait state `st` answers alike from states that differ only in leftovers. -/
def IgnoresLeftovers (st : FsmState) (f : State → Result) : Prop :=
  ∀ (s : State) (fb : Memory) (q c : Byte), s.st = st → SameButLeftovers s (withLeftovers fb q c s) →
    SameAfter (f s) (f (withLeftovers fb q c s))

theorem takeByte_ignores {st : FsmState} {k : State → Result} (b : Byte) (hk : IgnoresLeftovers st k) :
    IgnoresLeftovers st (takeByte b k) := by
  intro s fb q c hst h t ht
  obtain ⟨rest, hrx, hnext⟩ := takeByte_next ht
  have hpop : SameButLeftovers (popped rest s) (withLeftovers fb q c (popped rest s)) :=
    same_of_kept h rfl rfl rfl rfl rfl
  obtain ⟨t', ht', hsame⟩ := hk (popped rest s) fb q c hst hpop t hnext
  exact ⟨t', (takeByte_cons (s := withLeftovers fb q c s) hrx).trans ht', hsame⟩

theorem discardByte_ignores (st : FsmState) : IgnoresLeftovers st discardByte := fun _ _ _ _ _ h => sameAfter_next h

/-! The sender's rules. -/

theorem endSession_same (cause : Cause) (s : State) (fb : Memory) (q c : Byte) :
    SameAfter (.next (endSession cause s)) (.next (endSession cause (withLeftovers fb q c s))) :=
  sameAfter_next (same_of_forgets (t := endSession cause s) fb q c ⟨nofun, nofun, nofun⟩)

/-- The payload just fetched reads back, whatever FB held. -/
theorem readN_write_nextPayload (m : Memory) (s : State) :
    (m.write 0 (nextPayload s)).readN 0 (bsz s) = nextPayload s := by
  have hlen : (nextPayload s).length = bsz s := padded_take_length _ _
  have := readN_write_self m 0 (nextPayload s)
  rwa [hlen] at this

theorem nextChunk_same (s : State) (fb : Memory) (q c : Byte) :
    SameAfter (nextChunk s) (nextChunk (withLeftovers fb q c s)) := by
  intro t ht
  cases nextChunk_move ht with
  | eot heq =>
    exact ⟨_, nextChunk_eot (s := withLeftovers fb q c s) heq, same_of_forgets fb q c ⟨nofun, nofun, nofun⟩⟩
  | frame tr hlt htr =>
    exact ⟨_, nextChunk_frame (s := withLeftovers fb q c s) hlt htr, rfl,
      fun _ => (readN_write_nextPayload fb s).trans (readN_write_nextPayload s.fb s).symm, nofun, nofun⟩

theorem blockError_ignores : IgnoresLeftovers .txBlkWait blockError := by
  intro s fb q c hst h t ht
  have hread : fb.readN 0 (bsz s) = s.fb.readN 0 (bsz s) := h.sending hst
  cases blockError_move ht with
  | exhausted heq =>
    exact ⟨_, blockError_exhausted (s := withLeftovers fb q c s) heq,
      same_of_forgets fb q c ⟨nofun, nofun, nofun⟩⟩
  | again tr hne htr =>
    have hsent := blockError_again (s := withLeftovers fb q c s) hne (hread.symm ▸ htr)
    refine ⟨_, hsent, ?_, fun _ => hread, nofun, nofun⟩
    show frameSent (fb.readN 0 (bsz s)) tr _ = _
    rw [hread]
    rfl

theorem txEotExpiry_ignores : IgnoresLeftovers .txEotWait txEotExpiry := by
  intro s fb q c hst h
  unfold txEotExpiry
  by_cases hn : s.rtry = s.params.nTxEot
  · rw [if_pos hn, if_pos (by exact hn)]
    exact endSession_same .txOkUnacked s fb q c
  · rw [if_neg hn, if_neg (by exact hn)]
    exact sameAfter_next (same_of_kept h rfl rfl rfl rfl rfl)

/-! The receiver's rules. -/

theorem duplicateAnswered_same (s : State) (fb : Memory) (q c : Byte) :
    SameButLeftovers (duplicateAnswered s) (duplicateAnswered (withLeftovers fb q c s)) :=
  same_of_forgets (t := duplicateAnswered s) fb q c ⟨nofun, nofun, nofun⟩

theorem invalidAnswered_same (s : State) (fb : Memory) (q c : Byte) :
    SameButLeftovers (invalidAnswered s) (invalidAnswered (withLeftovers fb q c s)) := by
  unfold invalidAnswered
  by_cases hn : s.err + 1#8 = s.params.nMaxErr
  · rw [if_pos hn, if_pos (by exact hn)]
    exact same_of_forgets fb q c ⟨nofun, nofun, nofun⟩
  · rw [if_neg hn, if_neg (by exact hn)]
    exact same_of_forgets fb q c ⟨nofun, nofun, nofun⟩

theorem respondPending_same (s : State) (fb : Memory) (q c : Byte) :
    SameAfter (respondPending s) (respondPending (withLeftovers fb q c s)) := by
  have hp : (withLeftovers fb q c s).pend = s.pend := rfl
  unfold respondPending
  rw [hp]
  cases s.pend
  case dup => exact sameAfter_next (duplicateAnswered_same s fb q c)
  case invalid =>
    simp only [respondInvalid_eq]
    exact sameAfter_next (invalidAnswered_same s fb q c)
  case none => exact sameAfter_fault _ _
  case reserved => exact sameAfter_fault _ _

theorem rejected_same (p : Pending) (s : State) (fb : Memory) (q c : Byte) :
    SameButLeftovers (rejected p s) (rejected p (withLeftovers fb q c s)) := by
  have hd : (withLeftovers fb q c s).params = s.params := rfl
  unfold rejected
  rw [hd]
  split
  · exact same_of_forgets fb q c ⟨nofun, nofun, nofun⟩
  · split
    · exact duplicateAnswered_same s fb q c
    · exact invalidAnswered_same s fb q c

/-- The complement byte is judged by RSEQ and the byte itself; the payload starts at IDX 0. -/
theorem complemented_same (s : State) (fb : Memory) :
    SameButLeftovers (complemented s) (complemented (withLeftovers fb s.rseq s.rcmp s)) := by
  have hc : classify (withLeftovers fb s.rseq s.rcmp s).seq (withLeftovers fb s.rseq s.rcmp s).rseq
      (withLeftovers fb s.rseq s.rcmp s).rcmp = classify s.seq s.rseq s.rcmp := rfl
  unfold complemented
  rw [hc]
  cases classify s.seq s.rseq s.rcmp
  case dup => exact rejected_same .dup s fb _ _
  case sync => exact same_of_forgets fb s.rseq s.rcmp ⟨nofun, nofun, nofun⟩
  case invalid => exact rejected_same .invalid s fb _ _
  case candidate => exact ⟨rfl, nofun, fun _ a ha => absurd ha (Nat.not_lt_zero a), nofun⟩

theorem complementByte_ignores (b : Byte) : IgnoresLeftovers .rxCmpl (complementByte b) := by
  intro s fb q c hst h
  obtain rfl : q = s.rseq := h.sequence hst
  rw [complementByte_eq, complementByte_eq]
  exact sameAfter_next (complemented_same { s with rcmp := b } fb)

theorem sequenceByte_ignores (b : Byte) : IgnoresLeftovers .rxSeq (sequenceByte b) :=
  fun _ _ _ _ _ _ => sameAfter_next ⟨rfl, nofun, nofun, fun _ => rfl⟩

theorem verified_same (tl : Nat) (s : State) (fb : Memory) (q c : Byte)
    (hread : ∀ a < bsz s + tl, fb.read a = s.fb.read a) :
    SameButLeftovers (verified tl s) (verified tl (withLeftovers fb q c s)) := by
  have hp : fb.readN 0 (bsz s) = s.fb.readN 0 (bsz s) := readN_congr _ _ _ _ (fun i hi => hread _ (by omega))
  have ht : fb.readN (bsz s) tl = s.fb.readN (bsz s) tl := readN_congr _ _ _ _ (fun i hi => hread _ (by omega))
  have hv : verified tl (withLeftovers fb q c s) =
      if ckVerify s.params.checksum s.ckm (fb.readN 0 (bsz s)) (fb.readN (bsz s) tl)
      then accepted (withLeftovers fb q c s) else invalidAnswered (withLeftovers fb q c s) := rfl
  have ha : accepted (withLeftovers fb q c s) = withLeftovers fb q c (accepted s) := by
    show nextWait { withLeftovers fb q c s with
        dst := s.dst ++ fb.readN 0 (bsz s), seq := seqNext s.seq, err := 0x00#8, tx := s.tx ++ [ACK], last := true } = _
    rw [hp]
    rfl
  rw [hv, hp, ht, ha]
  unfold verified
  split
  · exact same_of_forgets fb q c ⟨nofun, nofun, nofun⟩
  · exact invalidAnswered_same s fb q c

/-- Storing a byte at IDX in either state leaves the frame read so far the same in both. -/
theorem stored_same {s : State} {fb : Memory} (b : Byte) (hin : s.idx.toNat < fbSize)
    (hread : ∀ a < s.idx.toNat, fb.read a = s.fb.read a) :
    ∀ a < (s.idx + 1#11).toNat, (fb.write s.idx.toNat [b]).read a = (s.fb.write s.idx.toNat [b]).read a := by
  intro a ha
  have hsucc : (s.idx + 1#11).toNat = s.idx.toNat + 1 := by
    rw [BitVec.toNat_add]
    exact Nat.mod_eq_of_lt (by simp only [fbSize] at hin; simp; omega)
  rw [read_write, read_write]
  split
  · rfl
  · rename_i hne
    exact hread a (by simp at hne; omega)

theorem dataByte_ignores (b : Byte) : IgnoresLeftovers .rxData (dataByte b) := by
  intro s fb q c hst h t ht
  obtain ⟨tl, htl, hin, rfl⟩ := dataByte_next ht
  have hread := stored_same b hin (h.receiving hst)
  refine ⟨_, dataByte_ok (s := withLeftovers fb q c s) htl hin, ?_⟩
  by_cases hn : (s.idx + 1#11).toNat = bsz s + tl
  · rw [if_pos hn, if_pos (by exact hn)]
    exact verified_same tl (stored b s) (fb.write s.idx.toNat [b]) q c (fun a ha => hread a (hn ▸ ha))
  · rw [if_neg hn, if_neg (by exact hn)]
    exact ⟨rfl, fun hs => absurd (hst.symm.trans hs) (by decide), fun _ => hread,
      fun hs => absurd (hst.symm.trans hs) (by decide)⟩

theorem drainByte_ignores : IgnoresLeftovers .rxDrain drainByte := by
  intro s fb q c hst h
  have hm : (withLeftovers fb q c s).ckm = s.ckm := rfl
  unfold drainByte
  rw [hm]
  cases trailerLength s.ckm with
  | none => exact sameAfter_fault _ _
  | some tl =>
    by_cases hn : (s.idx + 1#11).toNat = bsz s + tl
    · simp only
      rw [if_pos (by exact hn), if_pos (by exact hn)]
      exact respondPending_same { s with idx := s.idx + 1#11 } fb q c
    · have hforgets : Forgets s.st := by rw [hst]; exact ⟨nofun, nofun, nofun⟩
      simp only
      rw [if_neg (by exact hn), if_neg (by exact hn)]
      exact sameAfter_next (same_of_forgets (t := { s with idx := s.idx + 1#11 }) fb q c hforgets)

theorem beginFrame_ignores (st : FsmState) (x : Bool) : IgnoresLeftovers st (beginFrame x) :=
  fun s fb q c _ _ => sameAfter_next (same_of_forgets (t := frameBegun x s) fb q c ⟨nofun, nofun, nofun⟩)

theorem frameExpiry_same (s : State) (fb : Memory) (q c : Byte) :
    SameAfter (frameExpiry s) (frameExpiry (withLeftovers fb q c s)) := by
  rw [frameExpiry, frameExpiry, respondInvalid_eq, respondInvalid_eq]
  exact sameAfter_next (invalidAnswered_same s fb q c)

theorem rxHsExpiry_ignores : IgnoresLeftovers .rxHsWait rxHsExpiry := by
  intro s fb q c hst h
  unfold rxHsExpiry
  by_cases hn : s.rtry + 1#8 = s.params.nRxHs
  · rw [if_pos (by exact hn), if_pos (by exact hn)]
    exact endSession_same .rxHsTimeout (cancelSignal { s with rtry := s.rtry + 1#8 }) fb q c
  · rw [if_neg (by exact hn), if_neg (by exact hn)]
    exact sameAfter_next (same_of_kept h rfl rfl rfl rfl rfl)

theorem rxNextExpiry_again {s : State} (hn : s.rtry + 1#8 ≠ s.params.nRxNext) :
    rxNextExpiry s =
      .next (timerStart .rxNext (emit [if s.last then ACK else NAK] { s with rtry := s.rtry + 1#8 })) := if_neg hn

theorem rxNextExpiry_ignores : IgnoresLeftovers .rxNextWait rxNextExpiry := by
  intro s fb q c hst h
  by_cases hn : s.rtry + 1#8 = s.params.nRxNext
  · unfold rxNextExpiry
    rw [if_pos (by exact hn), if_pos (by exact hn)]
    exact endSession_same .rxNoData (cancelSignal { s with rtry := s.rtry + 1#8 }) fb q c
  · rw [rxNextExpiry_again hn, rxNextExpiry_again (s := withLeftovers fb q c s) hn]
    exact sameAfter_next (same_of_kept h rfl rfl rfl rfl rfl)

/-! The instructions. -/

/-- A column of the event table ignores leftovers when its rules outside a frame do; the rules of a frame's bytes do. -/
theorem eventColumn_same {b : Byte} {f1 f2 f3 f4 f5 : State → Result} {s : State} {fb : Memory} {q c : Byte}
    (h : SameButLeftovers s (withLeftovers fb q c s)) (h1 : IgnoresLeftovers .txHsWait f1)
    (h2 : IgnoresLeftovers .txBlkWait f2) (h3 : IgnoresLeftovers .txEotWait f3)
    (h4 : IgnoresLeftovers .rxHsWait f4) (h5 : IgnoresLeftovers .rxNextWait f5) :
    SameAfter (eventColumn b f1 f2 f3 f4 f5 s) (eventColumn b f1 f2 f3 f4 f5 (withLeftovers fb q c s)) := by
  have hs' : (withLeftovers fb q c s).st = s.st := rfl
  unfold eventColumn
  rw [hs']
  cases hst : s.st
  case txHsWait => exact takeByte_ignores b h1 s fb q c hst h
  case txBlkWait => exact takeByte_ignores b h2 s fb q c hst h
  case txEotWait => exact takeByte_ignores b h3 s fb q c hst h
  case rxHsWait => exact takeByte_ignores b h4 s fb q c hst h
  case rxSeq => exact takeByte_ignores b (sequenceByte_ignores b) s fb q c hst h
  case rxCmpl => exact takeByte_ignores b (complementByte_ignores b) s fb q c hst h
  case rxData => exact takeByte_ignores b (dataByte_ignores b) s fb q c hst h
  case rxDrain => exact takeByte_ignores b drainByte_ignores s fb q c hst h
  case rxNextWait => exact takeByte_ignores b h5 s fb q c hst h
  case idle => exact sameAfter_next h
  case done => exact sameAfter_next h
  case reserved => exact sameAfter_fault _ _

theorem requestTaken_ignores (m : ChecksumMode) : IgnoresLeftovers .txHsWait (requestTaken m) :=
  fun s fb q c _ _ => nextChunk_same { s with ckm := m } fb q c

theorem blockAcked_ignores : IgnoresLeftovers .txBlkWait blockAcked :=
  fun s fb q c _ _ => nextChunk_same { s with seq := seqNext s.seq, err := 0x00#8 } fb q c

theorem execSend_same (opt : Bool) {s : State} {fb : Memory} {q c : Byte}
    (h : SameButLeftovers s (withLeftovers fb q c s)) :
    SameAfter (execSend opt s) (execSend opt (withLeftovers fb q c s)) := by
  have hb : (withLeftovers fb q c s).busy = s.busy := rfl
  unfold execSend
  rw [hb]
  split
  · exact sameAfter_next h
  · by_cases hl : s.srcPort.length < 2 ^ s.params.wSrc
    · rw [if_pos hl, if_pos (by exact hl)]
      exact sameAfter_next (same_of_forgets (t := startSend opt s) fb q c ⟨nofun, nofun, nofun⟩)
    · rw [if_neg hl]
      exact sameAfter_refused _ _

theorem execReceive_same (opt : Bool) {s : State} {fb : Memory} {q c : Byte}
    (h : SameButLeftovers s (withLeftovers fb q c s)) :
    SameAfter (execReceive opt s) (execReceive opt (withLeftovers fb q c s)) := by
  have hb : (withLeftovers fb q c s).busy = s.busy := rfl
  unfold execReceive
  rw [hb]
  split
  · exact sameAfter_next h
  · exact sameAfter_next (same_of_forgets (t := startReceive opt s) fb q c ⟨nofun, nofun, nofun⟩)

theorem execCancel_same (opt : Bool) {s : State} {fb : Memory} {q c : Byte}
    (h : SameButLeftovers s (withLeftovers fb q c s)) :
    SameAfter (execCancel opt s) (execCancel opt (withLeftovers fb q c s)) := by
  have hb : (withLeftovers fb q c s).busy = s.busy := rfl
  unfold execCancel
  rw [hb]
  split
  · exact sameAfter_next (same_of_kept (t := { s with cxl := true }) h rfl rfl rfl rfl rfl)
  · exact sameAfter_next h

theorem exec_same (i : Instr) {s : State} {fb : Memory} {q c : Byte}
    (h : SameButLeftovers s (withLeftovers fb q c s)) :
    SameAfter (exec i s) (exec i (withLeftovers fb q c s)) := by
  have disc := discardByte_ignores
  cases i with
  | soh => exact eventColumn_same h (disc _) (disc _) (disc _) (beginFrame_ignores _ _) (beginFrame_ignores _ _)
  | stx => exact eventColumn_same h (disc _) (disc _) (disc _) (beginFrame_ignores _ _) (beginFrame_ignores _ _)
  | eot =>
    exact eventColumn_same h (disc _) (disc _) (disc _) (disc _)
      (fun s fb q c _ _ => endSession_same .rxOk (emit [ACK] s) fb q c)
  | ack =>
    exact eventColumn_same h (disc _) blockAcked_ignores (fun s fb q c _ _ => endSession_same .txOkAcked s fb q c)
      (disc _) (disc _)
  | nak => exact eventColumn_same h (requestTaken_ignores _) blockError_ignores (disc _) (disc _) (disc _)
  | can =>
    exact eventColumn_same h (disc _) (fun s fb q c _ _ => endSession_same .txPeerCanBlock s fb q c)
      (fun s fb q c _ _ => endSession_same .txPeerCanEot s fb q c) (disc _) (disc _)
  | cpmeof => exact eventColumn_same h (disc _) (disc _) (disc _) (disc _) (disc _)
  | crq => exact eventColumn_same h (requestTaken_ignores _) (disc _) (disc _) (disc _) (disc _)
  | other b => exact eventColumn_same h (disc _) (disc _) (disc _) (disc _) (disc _)
  | nop opt => exact sameAfter_next h
  | send opt => exact execSend_same opt h
  | receive opt => exact execReceive_same opt h
  | cancel opt => exact execCancel_same opt h

/-! The turns. -/

theorem expire_same {s : State} {fb : Memory} {q c : Byte} (h : SameButLeftovers s (withLeftovers fb q c s)) :
    SameAfter (expire s) (expire (withLeftovers fb q c s)) := by
  have hs' : (withLeftovers fb q c s).st = s.st := rfl
  unfold expire
  rw [hs']
  cases hst : s.st
  case txHsWait => exact endSession_same .txHsTimeout s fb q c
  case txBlkWait => exact blockError_ignores s fb q c hst h
  case txEotWait => exact txEotExpiry_ignores s fb q c hst h
  case rxHsWait => exact rxHsExpiry_ignores s fb q c hst h
  case rxSeq => exact frameExpiry_same s fb q c
  case rxCmpl => exact frameExpiry_same s fb q c
  case rxData => exact frameExpiry_same s fb q c
  case rxDrain => exact respondPending_same s fb q c
  case rxNextWait => exact rxNextExpiry_ignores s fb q c hst h
  case idle => exact sameAfter_next h
  case done => exact sameAfter_next h
  case reserved => exact sameAfter_fault _ _

theorem poll_same {s : State} {fb : Memory} {q c : Byte} (h : SameButLeftovers s (withLeftovers fb q c s)) :
    SameAfter (poll s) (poll (withLeftovers fb q c s)) := by
  have hrx : (withLeftovers fb q c s).rx = s.rx := rfl
  have hexp : timerExpired (withLeftovers fb q c s) = timerExpired s := rfl
  have hcxl : (withLeftovers fb q c s).cxl = s.cxl := rfl
  unfold poll
  rw [hrx, hexp, hcxl]
  cases s.rx with
  | cons b rest => exact exec_same _ h
  | nil =>
    simp only
    split
    · exact expire_same h
    · split
      · exact endSession_same .localCancel (cancelSignal s) fb q c
      · exact sameAfter_next h

theorem engineTurn_same {s : State} {fb : Memory} {q c : Byte} (h : SameButLeftovers s (withLeftovers fb q c s)) :
    SameAfter (engineTurn s) (engineTurn (withLeftovers fb q c s)) := by
  have hr : (withLeftovers fb q c s).reservedField = s.reservedField := rfl
  have hb : (withLeftovers fb q c s).busy = s.busy := rfl
  unfold engineTurn
  rw [hr, hb]
  cases s.reservedField with
  | some f => exact sameAfter_fault _ _
  | none =>
    simp only
    split
    · exact poll_same h
    · exact sameAfter_next h

theorem hostTurn_same (w : CmdWord) {s : State} {fb : Memory} {q c : Byte}
    (h : SameButLeftovers s (withLeftovers fb q c s)) :
    SameAfter (hostTurn w s) (hostTurn w (withLeftovers fb q c s)) := by
  have hr : (withLeftovers fb q c s).reservedField = s.reservedField := rfl
  unfold hostTurn
  rw [hr]
  cases s.reservedField with
  | some f => exact sameAfter_fault _ _
  | none => exact exec_same _ h

theorem elapse_same {s : State} {fb : Memory} {q c : Byte} (h : SameButLeftovers s (withLeftovers fb q c s)) :
    SameButLeftovers (elapse s) (elapse (withLeftovers fb q c s)) := by
  have hd : (withLeftovers fb q c s).deadline = s.deadline := rfl
  unfold elapse
  rw [hd]
  split
  · exact same_of_kept h rfl rfl rfl rfl rfl
  · exact h

theorem runTurn_same (turn : Turn) {s : State} {fb : Memory} {q c : Byte}
    (h : SameButLeftovers s (withLeftovers fb q c s)) :
    SameAfter (runTurn turn s) (runTurn turn (withLeftovers fb q c s)) := by
  cases turn with
  | engine => exact engineTurn_same h
  | host w => exact hostTurn_same w h
  | peer b => exact sameAfter_next (same_of_kept (t := arrive b s) h rfl rfl rfl rfl rfl)
  | timer => exact sameAfter_next (elapse_same h)
  | bindSrc bs => exact sameAfter_next (same_of_kept (t := { s with srcPort := bs }) h rfl rfl rfl rfl rfl)
  | reset => exact sameAfter_next ⟨rfl, nofun, nofun, nofun⟩

/-- Settles O49: the turn the schedule gives next is the same in both states, and every turn ignores leftovers. -/
theorem noStepDependsOnLeftovers : Obligations.NoStepDependsOnLeftovers := by
  intro s s' t h hstep
  obtain ⟨fb, q, c, rfl⟩ := exists_withLeftovers h
  have hrest : SameButLeftovers { s with sched := s.sched.rest }
      (withLeftovers fb q c { s with sched := s.sched.rest }) := same_of_kept h rfl rfl rfl rfl rfl
  exact runTurn_same s.sched.next hrest t hstep

end Sys2Proof.Laws
end

section
/-!
PROOFS. Scope: the status readback (spec/10_state.md R31, R52; spec/44_host_operations.md R284), and the SEND refused
for its source (spec/93_implementation_defined.md U12).
-/

namespace Sys2Proof.Laws

open Sys2Proof Sys2Proof.Machine Sys2Proof.Config Sys2Proof.Safety

/-- A register of at most 11 bits fits STAT_DATA, whatever W_SRC. -/
theorem register_fits {w : Nat} (v : BitVec w) (hw : w ≤ 11) (wSrc : Nat) : v.toNat < 2 ^ max 11 wSrc :=
  lt_of_lt_of_le v.isLt (Nat.pow_le_pow_right (by decide) (hw.trans (le_max_left 11 wSrc)))

theorem flag_fits (b : Bool) (wSrc : Nat) : b.toNat < 2 ^ max 11 wSrc := by
  simpa using register_fits (BitVec.ofBool b) (by decide) wSrc

theorem readback_fits {s : State} (h : Inv s) (idx : BitVec 4) : s.readback idx < 2 ^ max 11 s.params.wSrc := by
  have hsptr : s.sptr < 2 ^ max 11 s.params.wSrc :=
    calc s.sptr ≤ s.src.length := h.sptrInSrc
      _ < 2 ^ s.params.wSrc := h.srcFits
      _ ≤ 2 ^ max 11 s.params.wSrc := Nat.pow_le_pow_right (by decide) (le_max_right 11 _)
  unfold State.readback
  split
  case h_3 | h_8 | h_13 => exact flag_fits _ _
  case h_15 => exact hsptr
  case h_16 => exact Nat.two_pow_pos _
  all_goals exact register_fits _ (by decide) _

theorem statData_toNat {s : State} (h : Inv s) (idx : BitVec 4) : (s.statData idx).toNat = s.readback idx := by
  rw [State.statData, BitVec.toNat_ofNat, Nat.mod_eq_of_lt (readback_fits h idx)]

/-- Settles O48: no register is wider than STAT_DATA, and the codes are those printed. -/
theorem statusReadbackIsExact : Obligations.StatusReadbackIsExact := by
  refine ⟨fun s h => ⟨statData_toNat h, ?_⟩, by decide⟩
  exact ⟨rfl, rfl, rfl, rfl, rfl, rfl, rfl, rfl, rfl, rfl, rfl, rfl, rfl, rfl, rfl, rfl⟩

/-- Settles O13: neither guard of SEND holds. -/
theorem sendRefusedWhenSourceTooLong : Obligations.SendRefusedWhenSourceTooLong := by
  intro s opt hb hl
  have hidle : ¬ s.busy = true := by simp [hb]
  exact (if_neg hidle).trans (if_neg (Nat.not_lt.mpr hl))

end Sys2Proof.Laws
end

section
/-!
PROOFS. Scope: what a step does to RX and to DST (spec/20_memory.md R73, R75; spec/42_receiver.md R215), transition by
transition.
-/

namespace Sys2Proof.Laws

open Sys2Proof Sys2Proof.Machine Sys2Proof.Config Sys2Proof.Safety

/-! RX. -/

/-- The engine takes the oldest byte, or leaves RX, and that in a wait state only where RX is empty (R252, R260). -/
theorem EngineMove.rx_kept_or_taken {s t : State} (h : EngineMove s t) :
    (t.rx = s.rx ∧ (s.busy = true → s.rx = [])) ∨ ∃ b, s.rx = b :: t.rx := by
  cases h with
  | quiet hb => exact .inl ⟨rfl, fun hb' => by simp [hb] at hb'⟩
  | byte b rest t hrx hm => exact .inr ⟨b, by rw [hrx, hm.kept.1]⟩
  | expiry t hrx he hm => exact .inl ⟨hm.kept.1, fun _ => hrx⟩
  | cancel _ hrx | nothing _ hrx => exact .inl ⟨rfl, fun _ => hrx⟩

theorem CommandMove.rx_eq {s t : State} {i : Instr} (h : CommandMove s i t) : t.rx = s.rx := by
  cases h <;> rfl

theorem elapse_rx (s : State) : (elapse s).rx = s.rx := by
  obtain ⟨e, -, heq⟩ := elapse_cases s
  rw [heq]

/-- Settles O46, by the transition: only the engine takes a byte, and only the peer adds one. -/
theorem inputIsConsumedInOrder : Obligations.InputIsConsumedInOrder := by
  intro s t h
  cases step_move h with
  | engine t hs hr hm =>
    rcases hm.rx_kept_or_taken with ⟨hrx, hempty⟩ | ⟨b, hrx⟩
    · exact ⟨.inl hrx, fun _ hb hne => absurd (hempty hb) hne⟩
    · exact ⟨.inr (.inl ⟨b, hrx⟩), fun _ _ _ => ⟨b, hrx⟩⟩
  | host w i t hs hr hi hm => exact ⟨.inl hm.rx_eq, fun he => by simp [hs] at he⟩
  | peer b hs => exact ⟨.inr (.inr ⟨b, hs, rfl⟩), fun he => by simp [hs] at he⟩
  | timer hs => exact ⟨.inl (elapse_rx _), fun he => by simp [hs] at he⟩
  | bindSrc bs hs => exact ⟨.inl rfl, fun he => by simp [hs] at he⟩
  | reset hs => exact ⟨.inl rfl, fun he => by simp [hs] at he⟩

/-! DST. -/

/-- The step from s to t accepts the frame whose payload and trailer FB holds in t: the trailer verifies, the payload
joins DST, ACK goes out and SEQ advances (R208, R215). -/
def AcceptsPayload (s t : State) : Prop :=
  s.st = .rxData ∧ ∃ p : List Byte, p.length = bsz s ∧ t.dst = s.dst ++ p ∧ p = t.fb.readN 0 (bsz s) ∧
    ckAppend s.params.checksum s.ckm p = some (t.fb.readN (bsz s) (t.idx.toNat - bsz s)) ∧
    t.tx = s.tx ++ [ACK] ∧ t.seq = s.seq + 1#8

theorem ChunkMove.dst_eq {s t : State} (h : ChunkMove s t) : t.dst = s.dst := by
  cases h <;> rfl

theorem ErrorMove.dst_eq {s t : State} (h : ErrorMove s t) : t.dst = s.dst := by
  cases h <;> rfl

/-- A verified frame is accepted with the payload and trailer that FB holds once the last byte is stored. -/
theorem accepted_acceptsPayload {s : State} {b : Byte} {rest : List Byte} {tl : Nat} (hst : s.st = .rxData)
    (hn : (s.idx + 1#11).toNat = bsz s + tl)
    (hv : ckVerify s.params.checksum s.ckm ((stored b (popped rest s)).fb.readN 0 (bsz s))
      ((stored b (popped rest s)).fb.readN (bsz s) tl) = true) :
    AcceptsPayload s (accepted (stored b (popped rest s))) := by
  have htl : (s.idx + 1#11).toNat - bsz s = tl := by omega
  refine ⟨hst, _, readN_length _ _ _, rfl, rfl, ?_, rfl, rfl⟩
  exact (beq_iff_eq.mp hv).trans (congrArg (fun n => some (Memory.readN _ (bsz s) n)) htl.symm)

theorem ByteMove.dst_eq_or_accepts {s t : State} {b : Byte} {rest : List Byte} (h : ByteMove s b rest t) :
    t.dst = s.dst ∨ AcceptsPayload s t := by
  cases h with
  | lastData tl hst htl hin hn =>
    unfold verified
    split
    · exact .inr (accepted_acceptsPayload hst hn ‹_›)
    · exact .inl (invalidAnswered_dst _)
  | request m t hst hb hc => exact .inl hc.dst_eq
  | acked t hst hb hc => exact .inl hc.dst_eq
  | naked t hst hb hc => exact .inl hc.dst_eq
  | complement => exact .inl (complemented_dst _)
  | lastDrainInvalid => exact .inl (invalidAnswered_dst _)
  | discarded | blockCancelled | eotAcked | eotCancelled | frameStart | sequence | data | drain | lastDrainDup |
    eotTaken => exact .inl rfl

theorem ExpiryMove.dst_eq {s t : State} (h : ExpiryMove s t) : t.dst = s.dst := by
  cases h with
  | txBlk t hst he => exact he.dst_eq
  | frame | drainInvalid => exact invalidAnswered_dst s
  | txHs | txEotLast | txEot | rxHsLast | rxHs | drainDup | rxNextLast | rxNext => rfl

theorem EngineMove.dst_eq_or_accepts {s t : State} (h : EngineMove s t) : t.dst = s.dst ∨ AcceptsPayload s t := by
  cases h with
  | byte b rest t hrx hm => exact hm.dst_eq_or_accepts
  | expiry t hrx he hm => exact .inl hm.dst_eq
  | quiet | cancel | nothing => exact .inl rfl

theorem Started.dst_eq_or_empty {s t : State} (h : Started s t) :
    t.dst = s.dst ∨ t.dst = [] ∧ t.st = .rxHsWait := by
  cases h with
  | send => exact .inl rfl
  | receive => exact .inr ⟨rfl, rfl⟩

/-- Settles O42, by the kind of step: of the engine's transitions only the accepting one changes DST. -/
theorem destinationOnlyGainsAcceptedPayloads : Obligations.DestinationOnlyGainsAcceptedPayloads := by
  intro s t h
  cases step_kind h with
  | engine t hs hb hm => exact hm.dst_eq_or_accepts.imp_right .inr
  | start t hs hb ht =>
    rcases ht.dst_eq_or_empty with hdst | ⟨hdst, hst⟩
    · exact .inl hdst
    · exact .inr (.inl ⟨hdst, hb, hst⟩)
  | reset | latch | quiet => exact .inl rfl

end Sys2Proof.Laws
end

section
/-!
PROOFS. Scope: no fault from a state with the invariant (spec/10_state.md R39, R49; spec/20_memory.md R71): each rule
answers in the wait state it belongs to, and so does every turn but a SEND whose source is too long.
-/

namespace Sys2Proof.Laws

open Sys2Proof Sys2Proof.Machine Sys2Proof.Config Sys2Proof.Safety

/-! The rules that can stop, in the states they belong to. -/

/-- In a good state whose ST is st the rule answers a next state. -/
def AnswersIn (st : FsmState) (f : State → Result) : Prop := ∀ s : State, Inv s → s.st = st → ∃ t, f s = .next t

theorem discardByte_answers (st : FsmState) : AnswersIn st discardByte := fun s _ _ => ⟨s, rfl⟩

theorem sendFrame_answers {s : State} (h : ModeSet s) : ∃ t, sendFrame s = .next t := by
  obtain ⟨tr, htr⟩ := ckAppend_of_mode s.params.checksum h (s.fb.readN 0 (bsz s))
  exact ⟨_, sendFrame_ok htr⟩

theorem nextChunk_answers {s : State} (h : ModeSet s) (hptr : s.sptr ≤ s.src.length) :
    ∃ t, nextChunk s = .next t := by
  rcases Nat.eq_or_lt_of_le hptr with heq | hlt
  · exact ⟨_, nextChunk_eot heq⟩
  · rw [nextChunk_chunk hlt]
    exact sendFrame_answers h

/-- NAK or 'C' in the sender's handshake: the mode is chosen before the frame is built (R150). -/
theorem requestTaken_answers {m : ChecksumMode} (hm : m = .sum8 ∨ m = .crc16) :
    AnswersIn .txHsWait (requestTaken m) :=
  fun s h _ => nextChunk_answers (s := { s with ckm := m }) hm h.sptrInSrc

theorem blockAcked_answers : AnswersIn .txBlkWait blockAcked :=
  fun s h hst =>
    nextChunk_answers (s := { s with seq := seqNext s.seq, err := 0x00#8 })
      (moded_of_inv h hst rfl (by decide)).mode h.sptrInSrc

theorem blockError_answers : AnswersIn .txBlkWait blockError := by
  intro s h hst
  by_cases hn : s.err + 1#8 = s.params.nMaxErr
  · exact ⟨_, blockError_exhausted hn⟩
  · rw [blockError, if_neg hn]
    exact sendFrame_answers (s := { s with err := s.err + 1#8 }) (moded_of_inv h hst rfl (by decide)).mode

theorem respondPending_answers {s : State} (h : s.pend = .dup ∨ s.pend = .invalid) :
    ∃ t, respondPending s = .next t := by
  rcases h with hp | hp
  · exact ⟨_, by rw [respondPending, hp]; exact respondDup_eq s⟩
  · exact ⟨_, by rw [respondPending, hp]; exact respondInvalid_eq s⟩

theorem trailerLength_of_modeSet {s : State} (h : ModeSet s) : ∃ tl, trailerLength s.ckm = some tl := by
  rcases h with h | h <;> exact ⟨_, by rw [h]; rfl⟩

/-- IDX lies inside the frame, and the frame inside FB (R41, R71, R74). -/
theorem dataByte_answers (b : Byte) : AnswersIn .rxData (dataByte b) := by
  intro s h hst
  obtain ⟨tl, htl⟩ := trailerLength_of_modeSet (moded_of_inv h hst rfl (by decide)).mode
  have hidx : s.idx.toNat < bsz s + tl := h.idxInFrame (.inl hst) tl htl
  have hsize : bsz s ≤ 1024 := blockSize_le _
  have htl2 : tl ≤ 2 := (trailerLength_le htl).2
  exact ⟨_, dataByte_ok htl (by simp only [fbSize]; omega)⟩

theorem drainByte_answers : AnswersIn .rxDrain drainByte := by
  intro s h hst
  obtain ⟨tl, htl⟩ := trailerLength_of_modeSet (moded_of_inv h hst rfl (by decide)).mode
  simp only [drainByte, htl]
  split
  · exact respondPending_answers (s := { s with idx := s.idx + 1#11 }) (h.pendSet hst)
  · exact ⟨_, rfl⟩

/-! The columns of the event table (R253). -/

theorem st_ne_reserved {s : State} (h : Inv s) (n : Fin 5) : s.st ≠ .reserved n := by
  intro hst
  have hlegal := ((reservedField_eq_none_iff s).mp h.legal).1
  rw [hst] at hlegal
  cases hlegal

theorem takeByte_answers {st : FsmState} {b : Byte} {k : State → Result} {s : State} {rest : List Byte}
    (hk : AnswersIn st k) (h : Inv s) (hrx : s.rx = b :: rest) (hst : s.st = st) :
    ∃ t, takeByte b k s = .next t := by
  rw [takeByte_cons hrx]
  exact hk { s with rx := rest } { h with } hst

/-- A byte column answers when its rules outside a frame do. -/
theorem eventColumn_answers {b : Byte} {f1 f2 f3 f4 f5 : State → Result} {s : State} {rest : List Byte}
    (h : Inv s) (hrx : s.rx = b :: rest) (h1 : AnswersIn .txHsWait f1) (h2 : AnswersIn .txBlkWait f2)
    (h3 : AnswersIn .txEotWait f3) (h4 : AnswersIn .rxHsWait f4) (h5 : AnswersIn .rxNextWait f5) :
    ∃ t, eventColumn b f1 f2 f3 f4 f5 s = .next t := by
  unfold eventColumn
  cases hst : s.st with
  | txHsWait => exact takeByte_answers h1 h hrx hst
  | txBlkWait => exact takeByte_answers h2 h hrx hst
  | txEotWait => exact takeByte_answers h3 h hrx hst
  | rxHsWait => exact takeByte_answers h4 h hrx hst
  | rxNextWait => exact takeByte_answers h5 h hrx hst
  | rxSeq => exact takeByte_answers (fun _ _ _ => ⟨_, rfl⟩) h hrx hst
  | rxCmpl => exact takeByte_answers (fun s _ _ => ⟨_, complementByte_eq b s⟩) h hrx hst
  | rxData => exact takeByte_answers (dataByte_answers b) h hrx hst
  | rxDrain => exact takeByte_answers drainByte_answers h hrx hst
  | idle | done => exact ⟨s, rfl⟩
  | reserved n => exact absurd hst (st_ne_reserved h n)

theorem encode_decodeByte (b : Byte) : encode (decodeByte b) = .byte b := by
  unfold decodeByte
  split_ifs with h1 h2 h3 h4 h5 h6 h7 h8
  case neg => rfl
  all_goals subst b; rfl

/-- The meaning of the byte at the head of RX. -/
theorem wireByte_answers {i : Instr} {s : State} {b : Byte} {rest : List Byte} (h : Inv s) (hi : encode i = .byte b)
    (hrx : s.rx = b :: rest) : ∃ t, exec i s = .next t := by
  have disc := discardByte_answers
  have begins (st : FsmState) (x : Bool) : AnswersIn st (beginFrame x) := fun s _ _ => ⟨_, beginFrame_eq x s⟩
  have ends (st : FsmState) (c : Cause) : AnswersIn st (fun s => .next (endSession c s)) := fun _ _ _ => ⟨_, rfl⟩
  cases i with
  | soh | stx => cases hi; exact eventColumn_answers h hrx (disc _) (disc _) (disc _) (begins _ _) (begins _ _)
  | eot => cases hi; exact eventColumn_answers h hrx (disc _) (disc _) (disc _) (disc _) (fun _ _ _ => ⟨_, rfl⟩)
  | ack => cases hi; exact eventColumn_answers h hrx (disc _) blockAcked_answers (ends _ _) (disc _) (disc _)
  | nak =>
    cases hi
    exact eventColumn_answers h hrx (requestTaken_answers (.inl rfl)) blockError_answers (disc _) (disc _) (disc _)
  | can => cases hi; exact eventColumn_answers h hrx (disc _) (ends _ _) (ends _ _) (disc _) (disc _)
  | crq =>
    cases hi
    exact eventColumn_answers h hrx (requestTaken_answers (.inr rfl)) (disc _) (disc _) (disc _) (disc _)
  | cpmeof | other => cases hi; exact eventColumn_answers h hrx (disc _) (disc _) (disc _) (disc _) (disc _)
  | nop | send | receive | cancel => cases hi

theorem txEotExpiry_answers (s : State) : ∃ t, txEotExpiry s = .next t := by
  unfold txEotExpiry
  split <;> exact ⟨_, rfl⟩

theorem rxHsExpiry_answers (s : State) : ∃ t, rxHsExpiry s = .next t := by
  unfold rxHsExpiry
  dsimp only
  split <;> exact ⟨_, rfl⟩

theorem rxNextExpiry_answers (s : State) : ∃ t, rxNextExpiry s = .next t := by
  unfold rxNextExpiry
  dsimp only
  split <;> exact ⟨_, rfl⟩

/-- The expiry column. -/
theorem expire_answers {s : State} (h : Inv s) : ∃ t, expire s = .next t := by
  unfold expire
  cases hst : s.st with
  | txBlkWait => exact blockError_answers s h hst
  | txEotWait => exact txEotExpiry_answers s
  | rxHsWait => exact rxHsExpiry_answers s
  | rxSeq | rxCmpl | rxData => exact ⟨_, respondInvalid_eq s⟩
  | rxDrain => exact respondPending_answers (h.pendSet hst)
  | rxNextWait => exact rxNextExpiry_answers s
  | txHsWait | idle | done => exact ⟨_, rfl⟩
  | reserved n => exact absurd hst (st_ne_reserved h n)

/-! The turns. -/

theorem poll_answers {s : State} (h : Inv s) : ∃ t, poll s = .next t := by
  unfold poll
  split
  · exact wireByte_answers h (encode_decodeByte _) ‹_›
  · split_ifs
    · exact expire_answers h
    · exact ⟨_, rfl⟩
    · exact ⟨_, rfl⟩

theorem decodeCommand_port (w : CmdWord) : (decodeCommand w).port = .command := by
  unfold decodeCommand
  split_ifs <;> rfl

/-- A command goes on in any state, but for the SEND that U12 refuses. -/
theorem command_answers_or_refused {i : Instr} (hi : i.port = .command) (s : State) :
    (∃ t, exec i s = .next t) ∨
      (∃ opt, i = .send opt) ∧ s.busy = false ∧ 2 ^ s.params.wSrc ≤ s.srcPort.length ∧
        exec i s = .refused .sourceTooLong := by
  cases i with
  | nop opt => exact .inl ⟨s, rfl⟩
  | send opt =>
    by_cases hb : s.busy = true
    · exact .inl ⟨s, if_pos hb⟩
    · by_cases hl : s.srcPort.length < 2 ^ s.params.wSrc
      · exact .inl ⟨startSend opt s, (if_neg hb).trans (if_pos hl)⟩
      · have hidle : s.busy = false := by simpa using hb
        have hlong : 2 ^ s.params.wSrc ≤ s.srcPort.length := Nat.le_of_not_lt hl
        exact .inr ⟨⟨opt, rfl⟩, hidle, hlong, sendRefusedWhenSourceTooLong s opt hidle hlong⟩
  | receive opt =>
    by_cases hb : s.busy = true
    · exact .inl ⟨s, if_pos hb⟩
    · exact .inl ⟨startReceive opt s, if_neg hb⟩
  | cancel opt =>
    by_cases hb : s.busy = true
    · exact .inl ⟨{ s with cxl := true }, if_pos hb⟩
    · exact .inl ⟨s, if_neg hb⟩
  | soh | stx | eot | ack | nak | can | cpmeof | crq | other => cases hi

theorem hostTurn_eq {s : State} (h : s.reservedField = none) (w : CmdWord) :
    hostTurn w s = exec (decodeCommand w) s := by
  simp only [hostTurn, h]

theorem step_reset {s : State} (h : s.sched.next = .reset) :
    step s = .next (hardwareReset { s with sched := s.sched.rest }) := by
  simp only [step, scheduledTurn, h, runTurn]

/-- Settles O35, by the turn: every rule answers where the invariant holds, so only the host's can stop the machine. -/
theorem noFaultFromGoodState : Obligations.NoFaultFromGoodState := by
  intro s h
  have hs : Inv { s with sched := s.sched.rest } := { h with }
  cases hn : s.sched.next with
  | engine =>
    cases hb : s.busy with
    | true => exact .inl (step_poll hn h.legal hb ▸ poll_answers hs)
    | false => exact .inl ⟨_, step_quiet hn h.legal hb⟩
  | host w =>
    have hstep : step s = exec (decodeCommand w) { s with sched := s.sched.rest } :=
      (step_host hn).trans (hostTurn_eq hs.legal w)
    rcases command_answers_or_refused (decodeCommand_port w) { s with sched := s.sched.rest } with
      ⟨t, ht⟩ | ⟨⟨opt, hw⟩, hb, hl, hr⟩
    · exact .inl ⟨t, hstep.trans ht⟩
    · exact .inr ⟨⟨w, opt, hn, hw, hb, hl⟩, hstep.trans hr⟩
  | peer b => exact .inl ⟨_, step_peer hn⟩
  | timer => exact .inl ⟨_, step_timer hn⟩
  | bindSrc bs => exact .inl ⟨_, step_bindSrc hn⟩
  | reset => exact .inl ⟨_, step_reset hn⟩

end Sys2Proof.Laws
end

section
/-!
PROOFS. Scope: the decoder and the encoder (spec/30_encoding.md R100, R101, R106, R107) undo each other, on the wire
and on the command port.
-/

namespace Sys2Proof.Laws

open Sys2Proof Sys2Proof.Machine Sys2Proof.Config Sys2Proof.Safety

/-! The wire. -/

/-- A byte that none of the eight tests of the decoder takes is of the class OTHER. -/
theorem decodeByte_of_not_control {b : Byte} (h : b ∉ controlBytes) : decodeByte b = .other b := by
  simp only [controlBytes, List.mem_cons, List.not_mem_nil, or_false, not_or] at h
  obtain ⟨hsoh, hstx, heot, hack, hnak, hcan, hcpmeof, hcrq⟩ := h
  simp only [decodeByte, if_neg, *, not_false_eq_true]

theorem wf_other_iff (b : Byte) : (Instr.other b).wf = true ↔ b ∉ controlBytes := by
  simp [Instr.wf]

theorem decodeByte_wf (b : Byte) : (decodeByte b).wf = true := by
  by_cases h : b ∈ controlBytes
  · exact (by decide : ∀ c ∈ controlBytes, (decodeByte c).wf = true) b h
  · rw [decodeByte_of_not_control h]
    exact (wf_other_iff b).mpr h

theorem decodeByte_port (b : Byte) : (decodeByte b).port = .wire := by
  unfold decodeByte
  split_ifs <;> rfl

/-! The command port: OPT and OP are the fields of the word they are put into. -/

@[simp] theorem cmdOp_cmdWord (opt : Bool) (op : BitVec 2) : cmdOp (cmdWord opt op) = op := by
  revert opt op
  decide

@[simp] theorem cmdOpt_cmdWord (opt : Bool) (op : BitVec 2) : cmdOpt (cmdWord opt op) = opt := by
  revert opt op
  decide

@[simp] theorem cmdWord_cmdOpt_cmdOp (w : CmdWord) : cmdWord (cmdOpt w) (cmdOp w) = w := by
  revert w
  decide

/-- The last of the decoder's four answers needs no test: an OP that is none of the other three is 3. -/
theorem encode_decodeCommand (w : CmdWord) : encode (decodeCommand w) = .cmd w := by
  have hw := cmdWord_cmdOpt_cmdOp w
  unfold decodeCommand
  split_ifs with h0 h1 h2
  case neg =>
    have h3 : cmdOp w = 0b11#2 := by bv_omega
    exact congrArg Encoded.cmd (h3 ▸ hw)
  case pos => exact congrArg Encoded.cmd (h0 ▸ hw)
  case pos => exact congrArg Encoded.cmd (h1 ▸ hw)
  case pos => exact congrArg Encoded.cmd (h2 ▸ hw)

theorem decodeCommand_wf (w : CmdWord) : (decodeCommand w).wf = true := by
  unfold decodeCommand
  split_ifs <;> rfl

/-! Both ports. -/

/-- Settles O2, by the instruction: a control byte is a closed fact, OTHER passes every test of the decoder, and a
command is read back field by field. -/
theorem decodeEncodeGivesBack : Obligations.DecodeEncodeGivesBack := by
  intro i hwf
  cases i with
  | soh | stx | eot | ack | nak | can | cpmeof | crq => rfl
  | other b => exact decodeByte_of_not_control ((wf_other_iff b).mp hwf)
  | nop opt | send opt | receive opt | cancel opt => simp [encode, decode, decodeCommand]

/-- Settles O3, by the port. -/
theorem everyWordHasOneMeaning : Obligations.EveryWordHasOneMeaning := by
  intro w
  cases w with
  | byte b => exact ⟨decodeByte_wf b, decodeByte_port b, encode_decodeByte b⟩
  | cmd w => exact ⟨decodeCommand_wf w, decodeCommand_port w, encode_decodeCommand w⟩

/-- Settles O1, from O2: each word written out is the encoding of what it stands for. -/
theorem writtenOutWordsDecode : Obligations.WrittenOutWordsDecode := by
  have back := decodeEncodeGivesBack
  exact ⟨back .soh rfl, back .stx rfl, back .eot rfl, back .ack rfl, back .nak rfl, back .can rfl, back .cpmeof rfl,
    back .crq rfl, back (.other 0x63#8) rfl, back (.nop false) rfl, back (.send false) rfl, back (.receive false) rfl,
    back (.cancel false) rfl, back (.nop true) rfl, back (.send true) rfl, back (.receive true) rfl,
    back (.cancel true) rfl⟩

end Sys2Proof.Laws
end

section
/-!
PROOFS. Scope: the layout of a frame (spec/30_encoding.md R102 to R104) and the default checksums (R112, R113;
spec/20_memory.md R77).
-/

namespace Sys2Proof.Laws

open Sys2Proof Sys2Proof.Machine Sys2Proof.Config Sys2Proof.Safety

/-! The frame. -/

theorem frameBytes_length (x : Bool) (seq : Byte) (p tr : List Byte) :
    (frameBytes x seq p tr).length = 3 + p.length + tr.length := by
  simp only [frameBytes, List.length_cons, List.length_append]
  omega

theorem frameBytes_drop_three (x : Bool) (seq : Byte) (p tr : List Byte) :
    (frameBytes x seq p tr).drop 3 = p ++ tr := rfl

/-- Settles O4: three bytes of header, then payload and trailer, whose length is the mode's. -/
theorem frameLayout : Obligations.FrameLayout := by
  intro u m x seq p tr hp htr
  have htl := ckAppend_length htr
  have hmode : m = .sum8 ∨ m = .crc16 := by
    cases m with
    | sum8 => exact .inl rfl
    | crc16 => exact .inr rfl
    | none | reserved => cases htl
  refine ⟨hmode, ?_, by cases x <;> rfl, rfl, rfl, ?_, ?_⟩
  · rw [frameBytes_length, hp]
    rcases hmode with rfl | rfl <;> rw [← Option.some.inj htl] <;> cases x <;> rfl
  · rw [frameBytes_drop_three, List.take_left]
  · rw [← List.drop_drop, frameBytes_drop_three, List.drop_left]

/-! The sum. -/

theorem foldl_add_toNat (p : List Byte) (acc : Byte) :
    (p.foldl (fun a b => a + b) acc).toNat = (acc.toNat + (p.map BitVec.toNat).sum) % 256 := by
  induction p generalizing acc with
  | nil => exact (Nat.mod_eq_of_lt acc.isLt).symm
  | cons b p ih =>
    rw [List.foldl_cons, ih, BitVec.toNat_add, List.map_cons, List.sum_cons]
    omega

/-- Settles O5, from the accumulator 0. -/
theorem sumTrailerIsSumModulo256 : Obligations.SumTrailerIsSumModulo256 := by
  intro p
  simpa [sum8] using foldl_add_toNat p 0x00#8

/-! The CRC register. -/

/-- The polynomial comes in only when bit 15 leaves the register. -/
theorem crcShift_of_msb_clear {crc : BitVec 16} (h : crc.getLsbD 15 = false) : crcShift crc = crc <<< 1 := by
  simp only [crcShift, h, Bool.false_eq_true, if_false]

/-- While no set bit leaves the register, its shifts are the plain ones. -/
theorem crcShifts_of_msbs_clear {n : Nat} {crc : BitVec 16} (h : ∀ i, 16 ≤ i + n → crc.getLsbD i = false) :
    crcShifts n crc = crc <<< n := by
  induction n generalizing crc with
  | zero => simp [crcShifts]
  | succ n ih =>
    have hshift : ∀ i, 16 ≤ i + n → (crc <<< 1).getLsbD i = false := by
      intro i hi
      simp [BitVec.getLsbD_shiftLeft, h (i - 1) (by omega)]
    rw [crcShifts, crcShift_of_msb_clear (h 15 (by omega)), ih hshift, ← BitVec.shiftLeft_add, Nat.add_comm]

/-- The high byte of the register clears itself, and the low byte moves up unchanged. -/
theorem crcByte_high (crc : BitVec 16) :
    crcByte crc (crc.extractLsb' 8 8) = (crc.extractLsb' 0 8).zeroExtend 16 <<< 8 := by
  have hlow : crc ^^^ ((crc.extractLsb' 8 8).zeroExtend 16 <<< 8) = (crc.extractLsb' 0 8).zeroExtend 16 := by
    ext i hi
    by_cases h8 : i < 8
    · simp [h8, BitVec.getLsbD_eq_getElem hi]
    · have hback : 8 + (i - 8) = i := by omega
      have hhigh : i - 8 < 8 := by omega
      simp [h8, hback, hhigh, BitVec.getLsbD_eq_getElem hi]
  rw [crcByte, hlow]
  exact crcShifts_of_msbs_clear fun i hi => by simp; omega

/-- A byte that stands alone in the high half of the register clears it. -/
theorem crcByte_of_high_half (b : Byte) : crcByte (b.zeroExtend 16 <<< 8) b = 0x0000#16 := by
  rw [crcByte, BitVec.xor_self]
  rfl

theorem crc16_append_trailer (p : List Byte) : crc16 (p ++ crc16Trailer p) = 0x0000#16 :=
  calc crc16 (p ++ crc16Trailer p)
      = crcByte (crcByte (crc16 p) ((crc16 p).extractLsb' 8 8)) ((crc16 p).extractLsb' 0 8) := by
        simp only [crc16, crc16Trailer, List.foldl_append, List.foldl_cons, List.foldl_nil]
    _ = 0x0000#16 := by rw [crcByte_high, crcByte_of_high_half]

/-! The check values of R113. -/

theorem crc16_replicate_zero (n : Nat) : crc16 (List.replicate n 0x00#8) = 0x0000#16 := by
  have hzero : crcByte 0x0000#16 0x00#8 = 0x0000#16 := by decide
  induction n with
  | zero => rfl
  | succ n ih => rwa [crc16, List.replicate_succ, List.foldl_cons, hzero]

theorem crc16_digits :
    crc16 [0x31#8, 0x32#8, 0x33#8, 0x34#8, 0x35#8, 0x36#8, 0x37#8, 0x38#8, 0x39#8] = 0x31C3#16 := by
  decide +kernel

/-- 128 bytes run in two halves: the kernel does not evaluate so deep a fold at once. -/
theorem crc16_128_fillers : crc16 (List.replicate 128 CPMEOF) = 0xF8B0#16 := by
  have hfirst : (List.replicate 64 CPMEOF).foldl crcByte 0x0000#16 = 0x49DC#16 := by decide +kernel
  have hsecond : (List.replicate 64 CPMEOF).foldl crcByte 0x49DC#16 = 0xF8B0#16 := by decide +kernel
  rw [crc16, List.replicate_add 64 64, List.foldl_append, hfirst, hsecond]

theorem ckAppend_standard_crc16 {p : List Byte} {c : BitVec 16} (h : crc16 p = c) :
    ckAppend .standard .crc16 p = some [c.extractLsb' 8 8, c.extractLsb' 0 8] := by
  simp only [ckAppend, crc16Trailer, h]

/-- Settles O6: cancellation for every payload, and the three check values. -/
theorem crcTrailerCancelsAndHasCheckValues : Obligations.CrcTrailerCancelsAndHasCheckValues :=
  ⟨crc16_append_trailer, ckAppend_standard_crc16 crc16_digits,
    ckAppend_standard_crc16 (crc16_replicate_zero 128), ckAppend_standard_crc16 crc16_128_fillers⟩

end Sys2Proof.Laws
end

section
/-!
PROOFS. Scope: the handshake of both roles (spec/40_handshake.md R141 to R145, R150 to R152), the start of a frame
(spec/42_receiver.md R204, R205), the bytes a state outside a frame discards (spec/43_byte_io.md R251), and the
receiver's wait for a peer that stays silent.
-/

namespace Sys2Proof.Laws

open Sys2Proof Sys2Proof.Machine Sys2Proof.Config Sys2Proof.Safety

/-! The byte columns of the event table (R253), state by state. -/

section
variable {b : Byte} {txHs txBlk txEot rxHs rxNext : State → Result} {s : State} {rest : List Byte}

theorem eventColumn_txHsWait (hst : s.st = .txHsWait) (hrx : s.rx = b :: rest) :
    eventColumn b txHs txBlk txEot rxHs rxNext s = txHs (popped rest s) := by
  simp only [eventColumn, hst]
  exact takeByte_cons hrx

theorem eventColumn_txBlkWait (hst : s.st = .txBlkWait) (hrx : s.rx = b :: rest) :
    eventColumn b txHs txBlk txEot rxHs rxNext s = txBlk (popped rest s) := by
  simp only [eventColumn, hst]
  exact takeByte_cons hrx

theorem eventColumn_txEotWait (hst : s.st = .txEotWait) (hrx : s.rx = b :: rest) :
    eventColumn b txHs txBlk txEot rxHs rxNext s = txEot (popped rest s) := by
  simp only [eventColumn, hst]
  exact takeByte_cons hrx

theorem eventColumn_rxHsWait (hst : s.st = .rxHsWait) (hrx : s.rx = b :: rest) :
    eventColumn b txHs txBlk txEot rxHs rxNext s = rxHs (popped rest s) := by
  simp only [eventColumn, hst]
  exact takeByte_cons hrx

theorem eventColumn_rxNextWait (hst : s.st = .rxNextWait) (hrx : s.rx = b :: rest) :
    eventColumn b txHs txBlk txEot rxHs rxNext s = rxNext (popped rest s) := by
  simp only [eventColumn, hst]
  exact takeByte_cons hrx

theorem eventColumn_rxSeq (hst : s.st = .rxSeq) (hrx : s.rx = b :: rest) :
    eventColumn b txHs txBlk txEot rxHs rxNext s = sequenceByte b (popped rest s) := by
  simp only [eventColumn, hst]
  exact takeByte_cons hrx

/-- A column discards its byte in a state outside a frame where that state's cell does. -/
theorem eventColumn_discards (hrx : s.rx = b :: rest) (ho : outsideFrame s.st)
    (h1 : s.st = .txHsWait → txHs = discardByte) (h2 : s.st = .txBlkWait → txBlk = discardByte)
    (h3 : s.st = .txEotWait → txEot = discardByte) (h4 : s.st = .rxHsWait → rxHs = discardByte)
    (h5 : s.st = .rxNextWait → rxNext = discardByte) :
    eventColumn b txHs txBlk txEot rxHs rxNext s = .next (popped rest s) := by
  cases hst : s.st with
  | txHsWait => rw [eventColumn_txHsWait hst hrx, h1 hst]; rfl
  | txBlkWait => rw [eventColumn_txBlkWait hst hrx, h2 hst]; rfl
  | txEotWait => rw [eventColumn_txEotWait hst hrx, h3 hst]; rfl
  | rxHsWait => rw [eventColumn_rxHsWait hst hrx, h4 hst]; rfl
  | rxNextWait => rw [eventColumn_rxNextWait hst hrx, h5 hst]; rfl
  | idle | rxSeq | rxCmpl | rxData | rxDrain | reserved | done => rw [hst] at ho; cases ho

end

/-- Settles O15, by the byte: every cell of its column discards it, but for those of the states that name it. -/
theorem unnamedBytesAreDiscarded : Obligations.UnnamedBytesAreDiscarded := by
  intro s i b rest hi hrx h
  have ho : outsideFrame s.st := by
    rcases h with ⟨hst, -⟩ | ⟨hst, -⟩ | ⟨hst, -⟩ | ⟨hst, -⟩ | ⟨hst, -⟩ <;> rw [hst] <;> trivial
  -- the cell of a state that does not name the byte
  have disc {st : FsmState} : s.st = st → discardByte = discardByte := fun _ => rfl
  cases i with
  | soh | stx =>
    cases hi
    exact eventColumn_discards hrx ho disc disc disc (fun hst => by simp [hst] at h) (fun hst => by simp [hst] at h)
  | eot =>
    cases hi
    exact eventColumn_discards hrx ho disc disc disc disc (fun hst => by simp [hst] at h)
  | ack | can =>
    cases hi
    exact eventColumn_discards hrx ho disc (fun hst => by simp [hst] at h) (fun hst => by simp [hst] at h) disc disc
  | nak =>
    cases hi
    exact eventColumn_discards hrx ho (fun hst => by simp [hst] at h) (fun hst => by simp [hst] at h) disc disc disc
  | crq =>
    cases hi
    exact eventColumn_discards hrx ho (fun hst => by simp [hst] at h) disc disc disc disc
  | cpmeof | other => cases hi; exact eventColumn_discards hrx ho disc disc disc disc disc
  | nop | send | receive | cancel => cases hi

/-- Settles O23, by the state's cell in the byte's column. -/
theorem frameHeaderIsRead : Obligations.FrameHeaderIsRead := by
  intro s rest
  refine ⟨?_, fun i b hi hst hrx => ?_⟩
  · rintro (hst | hst)
    · exact ⟨eventColumn_rxHsWait hst, eventColumn_rxHsWait hst⟩
    · exact ⟨eventColumn_rxNextWait hst, eventColumn_rxNextWait hst⟩
  · cases i with
    | soh | stx | eot | ack | nak | can | cpmeof | crq | other => cases hi; exact eventColumn_rxSeq hst hrx
    | nop | send | receive | cancel => cases hi

/-! The request byte in the sender's handshake. -/

/-- The next chunk's padding, counted by the source bytes that are left (R105, R171). -/
theorem nextPayload_eq (s : State) :
    nextPayload s =
      (s.src.drop s.sptr).take (min (bsz s) (s.src.length - s.sptr)) ++
        List.replicate (bsz s - min (bsz s) (s.src.length - s.sptr)) CPMEOF := by
  rw [take_min_drop]
  simp only [nextPayload, padded, List.length_take, List.length_drop]

/-- NAK and 'C' run NextChunk in the mode they select (R150). -/
theorem exec_request {s : State} {i : Instr} {m : ChecksumMode} {rest : List Byte} (hst : s.st = .txHsWait)
    (h : (i = .nak ∧ m = .sum8 ∧ s.rx = NAK :: rest) ∨ (i = .crq ∧ m = .crc16 ∧ s.rx = CRQ :: rest)) :
    exec i s = nextChunk { popped rest s with ckm := m } := by
  rcases h with ⟨rfl, rfl, hrx⟩ | ⟨rfl, rfl, hrx⟩ <;> exact eventColumn_txHsWait hst hrx

/-- Settles O16, by what is left of the source. -/
theorem requestByteSendsFirstChunk : Obligations.RequestByteSendsFirstChunk := by
  intro s i m rest hst h
  have hexec : exec i s = nextChunk { popped rest s with ckm := m } := exec_request hst h
  refine ⟨fun hend => hexec.trans (nextChunk_eot hend), fun hlt n p tr hn hp htr => ?_⟩
  have hpayload : nextPayload { popped rest s with ckm := m } = p := by
    rw [hp, hn]
    exact nextPayload_eq _
  rw [hexec, nextChunk_frame (s := { popped rest s with ckm := m }) hlt (hpayload.symm ▸ htr), hpayload, hn]
  rfl

/-! Expiries in the handshakes. -/

theorem expire_txHsWait {s : State} (hst : s.st = .txHsWait) : expire s = txHsExpiry s := by
  simp only [expire, hst]

theorem expire_rxHsWait {s : State} (hst : s.st = .rxHsWait) : expire s = rxHsExpiry s := by
  simp only [expire, hst]

theorem rxHsExpiry_last {s : State} (hn : s.rtry + 1#8 = s.params.nRxHs) :
    rxHsExpiry s = .next (endSession .rxHsTimeout (cancelSignal { s with rtry := s.rtry + 1#8 })) := if_pos hn

/-- What an expiry below the bound leaves (R143). -/
def requestRepeated (s : State) : State :=
  { s with rtry := s.rtry + 1#8, tx := s.tx ++ [req s], deadline := some .rxHs, expired := false }

theorem rxHsExpiry_again {s : State} (hn : s.rtry + 1#8 ≠ s.params.nRxHs) :
    rxHsExpiry s = .next (requestRepeated s) := if_neg hn

/-- Settles O22: the poll serves the expiry. -/
theorem senderHandshakeTimeout : Obligations.SenderHandshakeTimeout := by
  intro s hr hst hrx he hs
  have hb : s.busy = true := by simp [busy_iff, hst]
  exact (step_expiry hs hr hb hrx he).trans (expire_txHsWait hst)

/-- Settles O28: the poll serves the expiry, on either side of the bound. -/
theorem receiverHandshakeExpiry : Obligations.ReceiverHandshakeExpiry := by
  intro s hr hst hrx he hs
  have hb : s.busy = true := by simp [busy_iff, hst]
  have hstep : step s = rxHsExpiry { s with sched := s.sched.rest } :=
    (step_expiry hs hr hb hrx he).trans (expire_rxHsWait hst)
  exact ⟨fun hn => hstep.trans (rxHsExpiry_last hn), fun hn => hstep.trans (rxHsExpiry_again hn)⟩

/-! A silent peer: every turn of the timer is followed by the poll that serves it. -/

/-- The state in which a poll serves the expiry of the timer turn before it. -/
def atExpiry (s : State) : State := { s with sched := s.sched.drop 2, expired := true }

/-- The deadline elapses and the next poll serves it. -/
theorem run_expiry {s t : State} {sel : TimerSel} (hr : s.reservedField = none) (hb : s.busy = true) (hrx : s.rx = [])
    (hd : s.deadline = some sel) (hs : s.sched.ahead 2 = [.timer, .engine]) (he : expire (atExpiry s) = .next t) :
    Host.Core.run core 2 s = .next t := by
  simp only [ahead_succ, ahead_zero, List.cons.injEq, and_true] at hs
  obtain ⟨htimer, hengine⟩ := hs
  have hfirst : step s = .next { s with sched := s.sched.rest, expired := true } :=
    (step_timer htimer).trans (congrArg Host.Outcome.next (elapse_of_deadline hd))
  have hsecond : step { s with sched := s.sched.rest, expired := true } = .next t :=
    (step_expiry (s := { s with sched := s.sched.rest, expired := true }) hengine hr hb hrx rfl).trans he
  rw [run_step hfirst, run_step hsecond]
  rfl

/-- From any attempt of the receiver's handshake on, the expiries still to come use up the bound (R143, R145). -/
theorem run_silent_handshake (k : Nat) :
    ∀ s : State, s.reservedField = none → s.st = .rxHsWait → s.rx = [] → s.deadline = some .rxHs →
      s.rtry.toNat + (k + 1) = s.params.nRxHs.toNat →
      s.sched.ahead (2 * (k + 1)) = (List.replicate (k + 1) [Turn.timer, Turn.engine]).flatten →
      ∃ t : State, Host.Core.run core (2 * (k + 1)) s = .next t ∧ t.st = .done ∧ t.result = 0x55#8 ∧
        t.rtry = s.params.nRxHs ∧ t.tx = s.tx ++ List.replicate k (req s) ++ [0x18#8, 0x18#8] := by
  induction k with
  | zero =>
    intro s hr hst hrx hd hcount hs
    have hb : s.busy = true := by simp [busy_iff, hst]
    have hn : s.rtry + 1#8 = s.params.nRxHs := by bv_omega
    have hserved := (expire_rxHsWait (s := atExpiry s) hst).trans (rxHsExpiry_last hn)
    refine ⟨_, run_expiry hr hb hrx hd hs hserved, rfl, rfl, hn, ?_⟩
    simp [atExpiry, CAN]
  | succ k ih =>
    intro s hr hst hrx hd hcount hs
    have hb : s.busy = true := by simp [busy_iff, hst]
    have hn : s.rtry + 1#8 ≠ s.params.nRxHs := by bv_omega
    have hcount' : (s.rtry + 1#8).toNat + (k + 1) = s.params.nRxHs.toNat := by bv_omega
    have hserved := (expire_rxHsWait (s := atExpiry s) hst).trans (rxHsExpiry_again hn)
    rw [show 2 * (k + 1 + 1) = 2 + 2 * (k + 1) by omega] at hs ⊢
    obtain ⟨hround, hlater⟩ := ahead_append (l := [.timer, .engine]) hs rfl
    obtain ⟨t, ht, hdone, hresult, hrtry, htx⟩ :=
      ih (requestRepeated (atExpiry s)) hr hst hrx rfl hcount' hlater
    refine ⟨t, (run_trans (run_expiry hr hb hrx hd hround hserved)).trans ht, hdone, hresult, hrtry, htx.trans ?_⟩
    simp [List.replicate_succ, req, requestRepeated, atExpiry]

theorem startReceive_reservedField (opt : Bool) (s : State) : (startReceive opt s).reservedField = none := by
  have hckm : (startReceive opt s).ckm ≠ .reserved := by cases opt <;> nofun
  exact (reservedField_eq_none_iff _).mpr ⟨rfl, hckm, nofun, (by decide : resultReserved 0x00#8 = false)⟩

theorem req_startReceive (opt : Bool) (s : State) : req (startReceive opt s) = if opt then CRQ else NAK := by
  cases opt <;> rfl

theorem startReceive_tx (opt : Bool) (s : State) :
    (startReceive opt s).tx = s.tx ++ [if opt then CRQ else NAK] := by
  cases opt <;> rfl

/-- A RECEIVE word outside a session starts one (R281). -/
theorem step_receive {s : State} {opt : Bool} (hs : s.sched.next = .host (cmdWord opt 0b10#2))
    (hr : s.reservedField = none) (hb : s.busy = false) :
    step s = .next (startReceive opt { s with sched := s.sched.rest }) := by
  have hidle : ¬ { s with sched := s.sched.rest }.busy = true := by simpa [State.busy] using hb
  have hword : decodeCommand (cmdWord opt 0b10#2) = .receive opt := decodeEncodeGivesBack (.receive opt) rfl
  rw [step_host hs, hostTurn_eq (s := { s with sched := s.sched.rest }) hr, hword]
  exact if_neg hidle

/-- Settles O53: the RECEIVE emits the first request byte, and the N_RX_HS expiries do the rest. -/
theorem silentTransmitterEndsReceive : Obligations.SilentTransmitterEndsReceive := by
  intro s opt n hr hb hrx hbound hpos hle hs
  obtain ⟨k, rfl⟩ : ∃ k, n = k + 1 := ⟨n - 1, by omega⟩
  obtain ⟨hfirst, hlater⟩ := ahead_append (l := [.host (cmdWord opt 0b10#2)]) hs rfl
  have hstart := step_receive (opt := opt) (by simpa using hfirst) hr hb
  have hcount : 0 + (k + 1) = s.params.nRxHs.toNat := by
    rw [hbound, BitVec.toNat_ofNat]
    omega
  obtain ⟨t, ht, hdone, hresult, hrtry, htx⟩ :=
    run_silent_handshake k (startReceive opt { s with sched := s.sched.rest }) (startReceive_reservedField opt _) rfl
      hrx rfl hcount hlater
  refine ⟨t, ?_, hdone, hresult, hrtry, ?_⟩
  · rw [Nat.add_comm, run_step hstart, ht]
  · rw [htx, req_startReceive, startReceive_tx]
    simp [List.replicate_succ, CRQ, NAK]

end Sys2Proof.Laws
end

section
/-!
PROOFS. Scope: the rules of TX_BLK_WAIT and TX_EOT_WAIT (spec/41_sender.md R175 to R184), byte by byte and at an expiry,
and the EOT of the receiver's wait (spec/42_receiver.md R220).
-/

namespace Sys2Proof.Laws

open Sys2Proof Sys2Proof.Machine Sys2Proof.Config Sys2Proof.Safety

/-! The bytes. -/

/-- What an ACK leaves before it goes on as NextChunk (R175). -/
def blockDone (s : State) : State := { s with seq := s.seq + 1#8, err := 0x00#8 }

theorem exec_ack_txBlkWait {s : State} {rest : List Byte} (hst : s.st = .txBlkWait) (hrx : s.rx = ACK :: rest) :
    exec .ack s = nextChunk (blockDone (popped rest s)) := eventColumn_txBlkWait hst hrx

theorem exec_nak_txBlkWait {s : State} {rest : List Byte} (hst : s.st = .txBlkWait) (hrx : s.rx = NAK :: rest) :
    exec .nak s = blockError (popped rest s) := eventColumn_txBlkWait hst hrx

theorem exec_ack_txEotWait {s : State} {rest : List Byte} (hst : s.st = .txEotWait) (hrx : s.rx = ACK :: rest) :
    exec .ack s = .next (endSession .txOkAcked (popped rest s)) := eventColumn_txEotWait hst hrx

/-- Settles O17, by what is left of the source. -/
theorem ackSendsNextChunk : Obligations.AckSendsNextChunk := by
  intro s rest hst hrx
  have hexec : exec .ack s = nextChunk (blockDone (popped rest s)) := exec_ack_txBlkWait hst hrx
  refine ⟨fun hend => hexec.trans (nextChunk_eot hend), fun hlt n p tr hn hp htr => ?_⟩
  have hpayload : nextPayload (blockDone (popped rest s)) = p := by
    rw [hp, hn]
    exact nextPayload_eq _
  rw [hexec, nextChunk_frame (s := blockDone (popped rest s)) hlt (hpayload.symm ▸ htr), hpayload, hn]
  rfl

/-- Settles O18: NAK is one error of the block, on either side of the bound. -/
theorem nakResendsOrAbandons : Obligations.NakResendsOrAbandons := by
  intro s rest hst hrx
  have hexec : exec .nak s = blockError (popped rest s) := exec_nak_txBlkWait hst hrx
  exact ⟨fun hn => hexec.trans (blockError_exhausted hn), fun hn tr htr => hexec.trans (blockError_again hn htr)⟩

/-- Settles O20: the byte's cell ends the session in each of the four states. -/
theorem bytesThatEndASession : Obligations.BytesThatEndASession := by
  intro s rest
  exact ⟨eventColumn_txBlkWait, eventColumn_txEotWait, exec_ack_txEotWait, eventColumn_rxNextWait⟩

/-! The expiries. -/

theorem expire_txBlkWait {s : State} (hst : s.st = .txBlkWait) : expire s = blockError s := by
  simp only [expire, hst, txBlkExpiry]

theorem expire_txEotWait {s : State} (hst : s.st = .txEotWait) : expire s = txEotExpiry s := by
  simp only [expire, hst]

theorem txEotExpiry_last {s : State} (hn : s.rtry = s.params.nTxEot) :
    txEotExpiry s = .next (endSession .txOkUnacked s) := if_pos hn

/-- What an expiry below the bound leaves (R183). -/
def eotRepeated (s : State) : State :=
  { s with rtry := s.rtry + 1#8, tx := s.tx ++ [EOT], deadline := some .txEot, expired := false }

theorem txEotExpiry_again {s : State} (hn : s.rtry ≠ s.params.nTxEot) :
    txEotExpiry s = .next (eotRepeated s) := if_neg hn

/-- Settles O19: the poll serves the expiry as one error of the block. -/
theorem responseExpiryResendsOrAbandons : Obligations.ResponseExpiryResendsOrAbandons := by
  intro s hr hst hrx he hs
  have hb : s.busy = true := by simp [busy_iff, hst]
  have hstep : step s = blockError { s with sched := s.sched.rest } :=
    (step_expiry hs hr hb hrx he).trans (expire_txBlkWait hst)
  exact ⟨fun hn => hstep.trans (blockError_exhausted hn), fun hn tr htr => hstep.trans (blockError_again hn htr)⟩

/-- Settles O21: the poll serves the expiry, on either side of the bound. -/
theorem eotExpiryRepeatsOrEnds : Obligations.EotExpiryRepeatsOrEnds := by
  intro s hr hst hrx he hs
  have hb : s.busy = true := by simp [busy_iff, hst]
  have hstep : step s = txEotExpiry { s with sched := s.sched.rest } :=
    (step_expiry hs hr hb hrx he).trans (expire_txEotWait hst)
  exact ⟨fun hn => hstep.trans (txEotExpiry_last hn), fun hn => hstep.trans (txEotExpiry_again hn)⟩

end Sys2Proof.Laws
end

section
/-!
PROOFS. Scope: the sender's frame law (spec/41_sender.md R173): how many chunks have been fetched says what SEQ, SPTR
and FB hold, whatever the peer, the timer and the host do.
-/

namespace Sys2Proof.Laws

open Sys2Proof Sys2Proof.Machine Sys2Proof.Config Sys2Proof.Safety

/-- k chunks of the source have been fetched, and SEQ is the sequence byte of the next one. -/
def Fetched (k : Nat) (s : State) : Prop :=
  s.sptr = min (k * bsz s) s.src.length ∧ s.seq = BitVec.ofNat 8 (k + 1)

/-- A chunk is left where SPTR has not been cut off by the end of the source. -/
theorem Fetched.sptr_of_lt {k : Nat} {s : State} (h : Fetched k s) (hlt : s.sptr < s.src.length) :
    s.sptr = k * bsz s := by
  have := h.1
  omega

theorem Fetched.nextPayload_eq_chunkOf {k : Nat} {s : State} (h : Fetched k s) (hlt : s.sptr < s.src.length) :
    nextPayload s = chunkOf s (k + 1) := by
  rw [nextPayload, h.sptr_of_lt hlt, chunkOf, Nat.add_sub_cancel]

/-- SPTR after the next chunk (R171). -/
theorem Fetched.sptr_next {k : Nat} {s : State} (h : Fetched k s) (hlt : s.sptr < s.src.length) :
    s.sptr + min (bsz s) (s.src.length - s.sptr) = min ((k + 1) * bsz s) s.src.length := by
  have hptr := h.sptr_of_lt hlt
  rw [Nat.succ_mul]
  omega

theorem seqNext_ofNat (k : Nat) : seqNext (BitVec.ofNat 8 k) = BitVec.ofNat 8 (k + 1) := (BitVec.ofNat_add k 1).symm

/-- Outside the sender's first two wait states the frame law asks nothing. -/
theorem frameLaw_of_st {t : State} (h1 : t.st ≠ .txHsWait) (h2 : t.st ≠ .txBlkWait) : FrameLaw t :=
  ⟨fun hst => absurd hst h1, fun hst => absurd hst h2⟩

/-- From a state of the receiver the engine keeps the role, so the state it enters is none of the sender's (R33). -/
theorem frameLaw_of_receives {s t : State} {st : FsmState} (hs : Inv s) (ht : Inv t) (hk : EngineKeeps s t)
    (hr : waitRole st = some .receiver) (hst : s.st = st) : FrameLaw t := by
  have hrole : t.role = .receiver := hk.role.trans (session_of_inv hs hst hr).role
  have notSender {st' : FsmState} (hw : waitRole st' = some .sender) : t.st ≠ st' := fun ht' =>
    absurd ((ht.role .sender (ht' ▸ hw)).symm.trans hrole) nofun
  exact frameLaw_of_st (notSender rfl) (notSender rfl)

/-- Before the first chunk none has been fetched, and SEQ is 0x01. -/
theorem fetched_of_request {s : State} (h : FrameLaw s) (hst : s.st = .txHsWait) : Fetched 0 s := by
  obtain ⟨hseq, hptr⟩ := h.handshake hst
  exact ⟨by rw [hptr, Nat.zero_mul, Nat.zero_min], hseq⟩

/-- The ACK of the k-th chunk moves SEQ to the next one. -/
theorem fetched_of_ack {s : State} (h : FrameLaw s) (hst : s.st = .txBlkWait) :
    ∃ k, Fetched k (blockDone s) := by
  obtain ⟨k, -, -, hptr, hseq, -⟩ := h.block hst
  exact ⟨k, hptr, (congrArg seqNext hseq).trans (seqNext_ofNat k)⟩

theorem ChunkMove.frameLaw {s t : State} {k : Nat} (hm : ChunkMove s t) (h : Fetched k s) : FrameLaw t := by
  cases hm with
  | eot => exact frameLaw_of_st nofun nofun
  | frame tr hlt htr =>
    have hstart : k * bsz s < s.src.length := h.sptr_of_lt hlt ▸ hlt
    have hfb := (readN_write_nextPayload s.fb s).trans (h.nextPayload_eq_chunkOf hlt)
    exact ⟨nofun, fun _ => ⟨k + 1, Nat.le_add_left 1 k, hstart, h.sptr_next hlt, h.2, hfb⟩⟩

/-- The same frame again, or the end of the session. -/
theorem ErrorMove.frameLaw {s t : State} (hm : ErrorMove s t) (hst : s.st = .txBlkWait) (h : FrameLaw s) :
    FrameLaw t := by
  cases hm with
  | exhausted => exact frameLaw_of_st nofun nofun
  | again => exact ⟨nofun, fun _ => h.block hst⟩

theorem ByteMove.frameLaw {s t : State} {b : Byte} {rest : List Byte} (hm : ByteMove s b rest t) (hinv : Inv s)
    (h : FrameLaw s) : FrameLaw t := by
  have receives {st : FsmState} := frameLaw_of_receives (st := st) hinv (hm.inv hinv) hm.engineKeeps
  cases hm with
  | discarded => exact { h with }
  | request m t hst hb hc =>
    have hk := fetched_of_request h hst
    exact hc.frameLaw (k := 0) hk
  | acked t hst hb hc =>
    obtain ⟨k, hk⟩ := fetched_of_ack h hst
    exact hc.frameLaw (k := k) hk
  | naked t hst hb hc => exact hc.frameLaw hst { h with }
  | blockCancelled | eotAcked | eotCancelled => exact frameLaw_of_st nofun nofun
  | frameStart x hst => exact hst.elim (receives rfl) (receives rfl)
  | sequence hst | complement hst | data _ hst | lastData _ hst | drain _ hst | lastDrainDup _ hst
  | lastDrainInvalid _ hst | eotTaken hst => exact receives rfl hst

theorem ExpiryMove.frameLaw {s t : State} (hm : ExpiryMove s t) (hinv : Inv s) (h : FrameLaw s) : FrameLaw t := by
  have receives {st : FsmState} := frameLaw_of_receives (st := st) hinv (hm.inv hinv) hm.engineKeeps
  cases hm with
  | txBlk t hst he => exact he.frameLaw hst h
  | txHs | txEotLast => exact frameLaw_of_st nofun nofun
  | txEot => exact { h with }
  | frame hst => exact hst.elim (receives rfl) (fun hst => hst.elim (receives rfl) (receives rfl))
  | rxHsLast hst | rxHs hst | drainDup hst | drainInvalid hst | rxNextLast hst | rxNext hst => exact receives rfl hst

theorem EngineMove.frameLaw {s t : State} (hm : EngineMove s t) (hinv : Inv s) (h : FrameLaw s) : FrameLaw t := by
  cases hm with
  | byte b rest t hrx hm => exact hm.frameLaw hinv h
  | expiry t hrx he hm => exact hm.frameLaw hinv h
  | cancel => exact frameLaw_of_st nofun nofun
  | quiet | nothing => exact h

theorem Started.frameLaw {s t : State} (hm : Started s t) : FrameLaw t := by
  cases hm with
  | send => exact ⟨fun _ => ⟨rfl, rfl⟩, nofun⟩
  | receive => exact frameLaw_of_st nofun nofun

/-- Settles O36, by the kind of step: SEND starts the law, and the engine's transitions keep it. -/
theorem everyStepKeepsFrameLaw : Obligations.EveryStepKeepsFrameLaw := by
  intro s t hinv h hstep
  cases step_kind hstep with
  | reset => exact frameLaw_of_st nofun nofun
  | start t _ hb ht => exact ht.frameLaw
  | engine t _ hb hm => exact hm.frameLaw { hinv with } { h with }
  | latch | quiet => exact { h with }

end Sys2Proof.Laws
end

section
/-!
PROOFS. Scope: whole runs of the sender: an EOT nobody answers (spec/41_sender.md R171, R183), a frame nobody accepts
(R176 to R178, R188), and a peer that answers each emission before the next poll (R187).
-/

namespace Sys2Proof.Laws

open Sys2Proof Sys2Proof.Machine Sys2Proof.Config Sys2Proof.Safety

/-! A byte that arrives where RX is empty, and the poll that takes it. -/

/-- The state in which a poll takes the byte of the peer's turn before it. -/
def atByte (b : Byte) (s : State) : State := { s with sched := s.sched.drop 2, rx := [b] }

theorem run_byte {s t : State} {b : Byte} (hr : s.reservedField = none) (hb : s.busy = true) (hrx : s.rx = [])
    (hs : s.sched.ahead 2 = [.peer b, .engine]) (he : exec (decodeByte b) (atByte b s) = .next t) :
    Host.Core.run core 2 s = .next t := by
  simp only [ahead_succ, ahead_zero, List.cons.injEq, and_true] at hs
  obtain ⟨hpeer, hengine⟩ := hs
  have hfirst : step s = .next { s with sched := s.sched.rest, rx := [b] } := by rw [step_peer hpeer, hrx]; rfl
  have hsecond : step { s with sched := s.sched.rest, rx := [b] } = .next t :=
    (step_byte (s := { s with sched := s.sched.rest, rx := [b] }) hengine hr hb rfl).trans he
  rw [run_step hfirst, run_step hsecond]
  rfl

theorem ChunkMove.reservedField_eq_none {s t : State} (hm : ChunkMove s t) (hr : s.reservedField = none) :
    t.reservedField = none := by
  obtain ⟨-, hckm, hpend, hres⟩ := (reservedField_eq_none_iff s).mp hr
  cases hm <;> exact (reservedField_eq_none_iff _).mpr ⟨rfl, hckm, hpend, hres⟩

theorem frameSent_reservedField {s : State} (p tr : List Byte) (hr : s.reservedField = none) :
    (frameSent p tr s).reservedField = none := by
  obtain ⟨-, hlegal⟩ := (reservedField_eq_none_iff s).mp hr
  exact (reservedField_eq_none_iff _).mpr ⟨rfl, hlegal⟩

theorem reservedField_of_mode {s : State} {m : ChecksumMode} (hr : s.reservedField = none) (hm : m ≠ .reserved) :
    { s with ckm := m }.reservedField = none := by
  obtain ⟨hst, -, hpend, hres⟩ := (reservedField_eq_none_iff s).mp hr
  exact (reservedField_eq_none_iff _).mpr ⟨hst, hm, hpend, hres⟩

/-! The EOT exchange. -/

/-- From any attempt of the EOT exchange on, the expiries still to come use up the bound (R183). -/
theorem run_unanswered_eot (k : Nat) :
    ∀ s : State, s.reservedField = none → s.st = .txEotWait → s.rx = [] → s.deadline = some .txEot →
      s.rtry.toNat + k = s.params.nTxEot.toNat →
      s.sched.ahead (2 * (k + 1)) = (List.replicate (k + 1) [Turn.timer, Turn.engine]).flatten →
      ∃ t : State, Host.Core.run core (2 * (k + 1)) s = .next t ∧ t.st = .done ∧ t.result = 0x12#8 ∧
        t.rtry = s.params.nTxEot ∧ t.tx = s.tx ++ List.replicate k EOT := by
  induction k with
  | zero =>
    intro s hr hst hrx hd hcount hs
    have hb : s.busy = true := by simp [busy_iff, hst]
    have hn : s.rtry = s.params.nTxEot := BitVec.eq_of_toNat_eq hcount
    have hserved := (expire_txEotWait (s := atExpiry s) hst).trans (txEotExpiry_last hn)
    exact ⟨_, run_expiry hr hb hrx hd hs hserved, rfl, rfl, hn, (List.append_nil _).symm⟩
  | succ k ih =>
    intro s hr hst hrx hd hcount hs
    have hb : s.busy = true := by simp [busy_iff, hst]
    have hn : s.rtry ≠ s.params.nTxEot := by bv_omega
    have hcount' : (s.rtry + 1#8).toNat + k = s.params.nTxEot.toNat := by bv_omega
    have hserved := (expire_txEotWait (s := atExpiry s) hst).trans (txEotExpiry_again hn)
    rw [show 2 * (k + 1 + 1) = 2 + 2 * (k + 1) by omega] at hs ⊢
    obtain ⟨hround, hlater⟩ := ahead_append (l := [.timer, .engine]) hs rfl
    obtain ⟨t, ht, hdone, hresult, hrtry, htx⟩ := ih (eotRepeated (atExpiry s)) hr hst hrx rfl hcount' hlater
    refine ⟨t, (run_trans (run_expiry hr hb hrx hd hround hserved)).trans ht, hdone, hresult, hrtry, htx.trans ?_⟩
    simp [List.replicate_succ, eotRepeated, atExpiry]

/-- The ACK of a block and the request byte go on as NextChunk, whatever they do to SEQ, ERR and CKM (R150, R175). -/
theorem exec_fetches {s : State} {b : Byte} {rest : List Byte} (hr : s.reservedField = none) (hrx : s.rx = b :: rest)
    (h : (s.st = .txBlkWait ∧ b = ACK) ∨ (s.st = .txHsWait ∧ (b = NAK ∨ b = CRQ))) :
    ∃ seq err m, m ≠ .reserved ∧
      exec (decodeByte b) s = nextChunk { popped rest s with seq := seq, err := err, ckm := m } := by
  obtain ⟨-, hckm, -, -⟩ := (reservedField_eq_none_iff s).mp hr
  rcases h with ⟨hst, rfl⟩ | ⟨hst, rfl | rfl⟩
  · exact ⟨s.seq + 1#8, 0x00#8, s.ckm, hckm, exec_ack_txBlkWait hst hrx⟩
  · exact ⟨s.seq, s.err, .sum8, nofun, exec_request hst (.inl ⟨rfl, rfl, hrx⟩)⟩
  · exact ⟨s.seq, s.err, .crc16, nofun, exec_request hst (.inr ⟨rfl, rfl, hrx⟩)⟩

/-- Settles O54: the byte starts the exchange with its first EOT, and the N_TX_EOT expiries do the rest. -/
theorem unansweredEotEndsSend : Obligations.UnansweredEotEndsSend := by
  intro s b n hr hrx hend hbyte hbound hpos hle hs
  obtain ⟨k, rfl⟩ : ∃ k, n = k + 1 := ⟨n - 1, by omega⟩
  obtain ⟨hfirst, hlater⟩ := ahead_append (l := [.peer b, .engine]) hs rfl
  have hb : s.busy = true := by rcases hbyte with ⟨hst, -⟩ | ⟨hst, -⟩ <;> simp [busy_iff, hst]
  obtain ⟨seq, err, m, hm, hexec⟩ := exec_fetches (s := atByte b s) hr rfl hbyte
  have heot := nextChunk_eot (s := { popped [] (atByte b s) with seq := seq, err := err, ckm := m }) hend
  have hr' := (nextChunk_move heot).reservedField_eq_none (reservedField_of_mode (s := popped [] (atByte b s)) hr hm)
  have hcount : 1 + k = s.params.nTxEot.toNat := by
    rw [hbound, BitVec.toNat_ofNat]
    omega
  obtain ⟨t, ht, hdone, hresult, hrtry, htx⟩ := run_unanswered_eot k _ hr' rfl rfl rfl hcount hlater
  refine ⟨t, (run_trans (run_byte hr hb hrx hfirst (hexec.trans heot))).trans ht, hdone, hresult, hrtry, htx.trans ?_⟩
  simp [List.replicate_succ, popped, atByte, EOT]

/-! A frame that is not accepted. -/

/-- The turns of one answer: a NAK, or the response deadline; then the poll that takes it. -/
def answerTurns (nak : Bool) : List Turn := [if nak then .peer NAK else .timer, .engine]

/-- The state in which such a poll counts its error. -/
def refusedAt (expired : Bool) (s : State) : State :=
  { s with sched := s.sched.drop 2, rx := [], expired := expired }

/-- Either answer counts one error of the block (R176, R178). -/
theorem run_answer {s : State} {nak : Bool} (hr : s.reservedField = none) (hst : s.st = .txBlkWait) (hrx : s.rx = [])
    (hd : s.deadline = some .txResp) (hs : s.sched.ahead 2 = answerTurns nak) :
    ∃ e, ∀ t, blockError (refusedAt e s) = .next t → Host.Core.run core 2 s = .next t := by
  have hb : s.busy = true := by simp [busy_iff, hst]
  cases nak with
  | true =>
    exact ⟨s.expired, fun t ht => run_byte hr hb hrx hs ((exec_nak_txBlkWait (s := atByte NAK s) hst rfl).trans ht)⟩
  | false =>
    have heq : atExpiry s = refusedAt true s := by rw [refusedAt, ← hrx]; rfl
    exact ⟨true, fun t ht =>
      run_expiry hr hb hrx hd hs ((expire_txBlkWait (s := atExpiry s) hst).trans ((congrArg blockError heq).trans ht))⟩

/-- From any error count on, the answers still to come use up the bound (R177, R188). -/
theorem run_refused_frame (tr : List Byte) (answers : List Bool) :
    ∀ (s : State) (nak : Bool), s.reservedField = none → s.st = .txBlkWait → s.rx = [] →
      s.deadline = some .txResp → s.err.toNat + (answers.length + 1) = s.params.nMaxErr.toNat →
      ckAppend s.params.checksum s.ckm (s.fb.readN 0 (bsz s)) = some tr →
      s.sched.ahead (2 * (answers.length + 1)) = ((nak :: answers).map answerTurns).flatten →
      ∃ t : State, Host.Core.run core (2 * (answers.length + 1)) s = .next t ∧ t.st = .done ∧ t.result = 0x56#8 ∧
        t.err = s.params.nMaxErr ∧
        t.tx = s.tx ++
          (List.replicate answers.length (frameBytes s.blk1k s.seq (s.fb.readN 0 (bsz s)) tr)).flatten ++
          [CAN, CAN] := by
  induction answers with
  | nil =>
    intro s nak hr hst hrx hd hcount htr hs
    rw [List.length_nil] at hcount
    have hn : s.err + 1#8 = s.params.nMaxErr := by bv_omega
    obtain ⟨e, hrun⟩ := run_answer hr hst hrx hd hs
    refine ⟨_, hrun _ (blockError_exhausted (s := refusedAt e s) hn), rfl, rfl, hn, ?_⟩
    simp [refusedAt]
  | cons nak' answers ih =>
    intro s nak hr hst hrx hd hcount htr hs
    rw [List.length_cons] at hcount hs ⊢
    have hn : s.err + 1#8 ≠ s.params.nMaxErr := by bv_omega
    have hcount' : (s.err + 1#8).toNat + (answers.length + 1) = s.params.nMaxErr.toNat := by bv_omega
    rw [show 2 * (answers.length + 1 + 1) = 2 + 2 * (answers.length + 1) by omega] at hs ⊢
    obtain ⟨hround, hlater⟩ := ahead_append (l := answerTurns nak) hs rfl
    obtain ⟨e, hrun⟩ := run_answer hr hst hrx hd hround
    have hsent := hrun _ (blockError_again (s := refusedAt e s) hn htr)
    have hr' :=
      frameSent_reservedField (s := { refusedAt e s with err := s.err + 1#8 }) (s.fb.readN 0 (bsz s)) tr hr
    obtain ⟨t, ht, hdone, hresult, herr, htx⟩ := ih _ nak' hr' rfl rfl rfl hcount' htr hlater
    refine ⟨t, (run_trans hsent).trans ht, hdone, hresult, herr, htx.trans ?_⟩
    simp [List.replicate_succ, frameSent, refusedAt, bsz]

/-- Settles O56, from the first answer on. -/
theorem senderRetryBound : Obligations.SenderRetryBound := by
  intro s answers tr hr hst herr hrx _ hd hbound hpos hle htr hs
  cases answers with
  | nil => cases hpos
  | cons nak answers =>
    have hcount : s.err.toNat + (answers.length + 1) = s.params.nMaxErr.toNat := by
      rw [List.length_cons] at hbound hle
      rw [herr, hbound, BitVec.toNat_ofNat, BitVec.toNat_ofNat]
      omega
    exact run_refused_frame tr answers s nak hr hst hrx hd hcount htr hs

/-! An ideal channel. -/

/-- The source has n chunks. -/
def HasChunks (n : Nat) (s : State) : Prop := ∀ i, i < n ↔ i * bsz s < s.src.length

/-- The frame of the k-th chunk, with sequence byte k modulo 256 (R172, R173). -/
def chunkFrame (s : State) (k : Nat) : List Byte :=
  frameBytes s.blk1k (BitVec.ofNat 8 k) (chunkOf s k)
    ((ckAppend s.params.checksum s.ckm (chunkOf s k)).getD [])

/-- The frame NextChunk sends once k chunks have been fetched. -/
theorem frameBytes_eq_chunkFrame {k : Nat} {s : State} {tr : List Byte} (h : Fetched k s)
    (hlt : s.sptr < s.src.length) (htr : ckAppend s.params.checksum s.ckm (nextPayload s) = some tr) :
    frameBytes s.blk1k s.seq (nextPayload s) tr = chunkFrame s (k + 1) := by
  rw [h.nextPayload_eq_chunkOf hlt] at htr ⊢
  rw [chunkFrame, htr, h.2]
  rfl

/-- From any chunk on, the ACKs still to come bring out the frames left, EOT and the success (R171, R175, R182). -/
theorem run_acked_chunks (m : Nat) :
    ∀ (k : Nat) (s : State), Fetched k s → HasChunks (k + m) s → s.reservedField = none → ModeSet s → s.rx = [] →
      s.sched.ahead (2 * (m + 1)) = (List.replicate (m + 1) [Turn.peer ACK, Turn.engine]).flatten →
      ∃ v t : State, nextChunk s = .next v ∧ Host.Core.run core (2 * (m + 1)) v = .next t ∧ t.st = .done ∧
        t.result = 0x11#8 ∧ t.rx = [] ∧ t.sptr = s.src.length ∧
        t.tx = s.tx ++ ((List.range' (k + 1) m).map (chunkFrame s)).flatten ++ [EOT] := by
  induction m with
  | zero =>
    intro k s hk hn hr hmode hrx hs
    have hend : s.sptr = s.src.length := by
      have hlast := (hn k).not
      have hptr := hk.1
      omega
    have heot := nextChunk_eot hend
    have hr' := (nextChunk_move heot).reservedField_eq_none hr
    refine ⟨_, _, heot, run_byte hr' rfl hrx hs (exec_ack_txEotWait (s := atByte ACK _) rfl rfl), rfl, rfl, rfl,
      hend, ?_⟩
    simp [popped, atByte]
  | succ m ih =>
    intro k s hk hn hr hmode hrx hs
    have hlt : s.sptr < s.src.length := by
      have hleft := (hn k).mp (by omega)
      have hptr := hk.1
      omega
    obtain ⟨tr, htr⟩ := ckAppend_of_mode s.params.checksum hmode (nextPayload s)
    have hsent := nextChunk_frame hlt htr
    have hr' := (nextChunk_move hsent).reservedField_eq_none hr
    set v := frameSent (nextPayload s) tr
      { s with fb := s.fb.write 0 (nextPayload s), sptr := s.sptr + min (bsz s) (s.src.length - s.sptr) }
    rw [show 2 * (m + 1 + 1) = 2 + 2 * (m + 1) by omega] at hs ⊢
    obtain ⟨hround, hlater⟩ := ahead_append (l := [.peer ACK, .engine]) hs rfl
    have hk' : Fetched (k + 1) (blockDone (popped [] (atByte ACK v))) :=
      ⟨hk.sptr_next hlt, (congrArg seqNext hk.2).trans (seqNext_ofNat (k + 1))⟩
    have hn' : HasChunks (k + 1 + m) (blockDone (popped [] (atByte ACK v))) := by
      rw [Nat.add_assoc, Nat.add_comm 1 m]
      exact hn
    obtain ⟨v', t, hv', ht, hdone, hresult, hrx', hptr, htx⟩ :=
      ih (k + 1) (blockDone (popped [] (atByte ACK v))) hk' hn' hr' hmode rfl hlater
    have hack := (exec_ack_txBlkWait (s := atByte ACK v) rfl rfl).trans hv'
    refine ⟨v, t, hsent, (run_trans (run_byte hr' rfl hrx hround hack)).trans ht, hdone, hresult, hrx', hptr,
      htx.trans ?_⟩
    have hframe : v.tx = s.tx ++ chunkFrame s (k + 1) := congrArg (s.tx ++ ·) (frameBytes_eq_chunkFrame hk hlt htr)
    rw [List.range'_succ, List.map_cons, List.flatten_cons, ← List.append_assoc s.tx, ← hframe]
    rfl

/-- A SEND word outside a session starts one (R280). -/
theorem step_send {s : State} {opt : Bool} (hs : s.sched.next = .host (cmdWord opt 0b01#2))
    (hr : s.reservedField = none) (hb : s.busy = false) (hl : s.srcPort.length < 2 ^ s.params.wSrc) :
    step s = .next (startSend opt { s with sched := s.sched.rest }) := by
  have hidle : ¬ { s with sched := s.sched.rest }.busy = true := by simpa [State.busy] using hb
  have hword : decodeCommand (cmdWord opt 0b01#2) = .send opt := decodeEncodeGivesBack (.send opt) rfl
  rw [step_host hs, hostTurn_eq (s := { s with sched := s.sched.rest }) hr, hword]
  exact (if_neg hidle).trans (if_pos hl)

theorem startSend_reservedField (opt : Bool) (s : State) : (startSend opt s).reservedField = none :=
  (reservedField_eq_none_iff _).mpr ⟨rfl, nofun, nofun, (by decide : resultReserved 0x00#8 = false)⟩

/-- What the request byte of a mode leaves before it goes on as NextChunk (R150). -/
def requested (m : ChecksumMode) (s : State) : State := { popped [] (atByte (requestByte m) s) with ckm := m }

theorem exec_requestByte {s : State} {m : ChecksumMode} (hst : s.st = .txHsWait) (hm : m = .sum8 ∨ m = .crc16) :
    exec (decodeByte (requestByte m)) (atByte (requestByte m) s) = nextChunk (requested m s) := by
  rcases hm with rfl | rfl
  · exact exec_request (s := atByte NAK s) hst (.inl ⟨rfl, rfl, rfl⟩)
  · exact exec_request (s := atByte CRQ s) hst (.inr ⟨rfl, rfl, rfl⟩)

/-- The frames of the first k chunks, counted from 0. -/
theorem map_chunkFrame_eq (s : State) (k : Nat) :
    (List.range' 1 k).map (chunkFrame s) = (List.range k).map (fun i => chunkFrame s (i + 1)) := by
  rw [List.range'_eq_map_range, List.map_map]
  exact List.map_congr_left fun i _ => congrArg (chunkFrame s) (Nat.add_comm 1 i)

/-- ceil(|SRC| / BSZ) counts the chunks. -/
theorem lt_ceil_iff {b : Nat} (hb : 0 < b) (l i : Nat) : i < (l + b - 1) / b ↔ i * b < l := by
  rw [Nat.lt_iff_add_one_le, Nat.le_div_iff_mul_le hb, Nat.succ_mul]
  omega

/-- Settles O58: SEND, the request byte, and then one ACK for each frame and for EOT. -/
theorem idealChannelSendSucceeds : Obligations.IdealChannelSendSucceeds := by
  intro s opt crc k hr hb hrx hl hk hs
  obtain ⟨m, hm⟩ : ∃ m : ChecksumMode, m = if crc then .crc16 else .sum8 := ⟨_, rfl⟩
  have hmode : m = .sum8 ∨ m = .crc16 := by cases crc <;> simp [hm]
  have hbyte : (if crc then 0x43#8 else 0x15#8) = requestByte m := by cases crc <;> rw [hm] <;> rfl
  rw [show 2 * k + 5 = 1 + (2 + 2 * (k + 1)) by omega] at hs ⊢
  rw [hbyte] at hs
  obtain ⟨hsend, hsession⟩ := ahead_append (l := [.host (cmdWord opt 0b01#2)]) hs rfl
  obtain ⟨hrequest, hacks⟩ := ahead_append (l := [.peer (requestByte m), .engine]) hsession rfl
  have hstart := step_send (opt := opt) (by simpa using hsend) hr hb hl
  set u := startSend opt { s with sched := s.sched.rest }
  have hr' : u.reservedField = none := startSend_reservedField opt _
  have hlegal : m ≠ .reserved := by rcases hmode with rfl | rfl <;> nofun
  have hfetched : Fetched 0 u :=
    fetched_of_request (Started.send (s := { s with sched := s.sched.rest }) opt hl).frameLaw rfl
  have hchunks : HasChunks k u := by
    rw [hk]
    exact lt_ceil_iff (blockSize_pos opt) _
  obtain ⟨v, t, hv, ht, hdone, hresult, hrx', hptr, htx⟩ :=
    run_acked_chunks k 0 (requested m u) hfetched ((Nat.zero_add k).symm ▸ hchunks)
      (reservedField_of_mode (s := popped [] (atByte (requestByte m) u)) hr' hlegal) hmode rfl hacks
  have hrun := run_byte hr' rfl hrx hrequest ((exec_requestByte rfl hmode).trans hv)
  refine ⟨t, ?_, hdone, hresult, hrx', hptr, htx.trans ?_⟩
  · rw [Nat.add_comm 1, run_step hstart]
    exact (run_trans hrun).trans ht
  · rw [Nat.zero_add, map_chunkFrame_eq, ← hm]
    rfl

end Sys2Proof.Laws
end

section
/-!
PROOFS. Scope: the receiver inside a frame and between frames (spec/42_receiver.md R206 to R211, R215 to R218, R222):
the bytes of RX_CMPL, RX_DATA and RX_DRAIN, the expiries of the four frame states, and the receiver's wait for a next
block that does not come.
-/

namespace Sys2Proof.Laws

open Sys2Proof Sys2Proof.Machine Sys2Proof.Config Sys2Proof.Safety

/-! In a frame state the class of a byte does not matter (R101, R253). -/

section
variable {i : Instr} {b : Byte} {s : State} {rest : List Byte}

/-- A wire byte runs its own column of the event table, whatever its rules outside a frame. -/
theorem exec_eq_eventColumn (hi : encode i = .byte b) (s : State) :
    ∃ txHs txBlk txEot rxHs rxNext, exec i s = eventColumn b txHs txBlk txEot rxHs rxNext s := by
  cases i with
  | soh | stx | eot | ack | nak | can | cpmeof | crq | other => cases hi; exact ⟨_, _, _, _, _, rfl⟩
  | nop | send | receive | cancel => cases hi

theorem exec_rxSeq (hi : encode i = .byte b) (hst : s.st = .rxSeq) (hrx : s.rx = b :: rest) :
    exec i s = sequenceByte b (popped rest s) := by
  obtain ⟨_, _, _, _, _, hexec⟩ := exec_eq_eventColumn hi s
  exact hexec.trans (eventColumn_rxSeq hst hrx)

theorem exec_rxCmpl (hi : encode i = .byte b) (hst : s.st = .rxCmpl) (hrx : s.rx = b :: rest) :
    exec i s = complementByte b (popped rest s) := by
  obtain ⟨_, _, _, _, _, hexec⟩ := exec_eq_eventColumn hi s
  simp only [hexec, eventColumn, hst]
  exact takeByte_cons hrx

theorem exec_rxData (hi : encode i = .byte b) (hst : s.st = .rxData) (hrx : s.rx = b :: rest) :
    exec i s = dataByte b (popped rest s) := by
  obtain ⟨_, _, _, _, _, hexec⟩ := exec_eq_eventColumn hi s
  simp only [hexec, eventColumn, hst]
  exact takeByte_cons hrx

theorem exec_rxDrain (hi : encode i = .byte b) (hst : s.st = .rxDrain) (hrx : s.rx = b :: rest) :
    exec i s = drainByte (popped rest s) := by
  obtain ⟨_, _, _, _, _, hexec⟩ := exec_eq_eventColumn hi s
  simp only [hexec, eventColumn, hst]
  exact takeByte_cons hrx

end

/-! The answers, on either side of the bound and by the classification (R206, R216, R217). -/

section
variable {s : State}

theorem invalidAnswered_last (hn : s.err + 1#8 = s.params.nMaxErr) :
    invalidAnswered s =
      { s with
        err := s.err + 1#8, tx := s.tx ++ [CAN, CAN], result := Cause.result .rxTooManyErrors, st := .done } :=
  if_pos hn

theorem invalidAnswered_again (hn : s.err + 1#8 ≠ s.params.nMaxErr) :
    invalidAnswered s = nextWait { s with err := s.err + 1#8, tx := s.tx ++ [NAK], last := false } := if_neg hn

theorem rejected_drained {p : Pending} (hd : s.params.drainOnReject = true) :
    rejected p s = { s with pend := p, idx := 0#11, st := .rxDrain } := if_pos hd

/-- The answer a classification calls for (R214). -/
def pendingAnswered (p : Pending) (s : State) : State := if p = .dup then duplicateAnswered s else invalidAnswered s

@[simp] theorem pendingAnswered_dup (s : State) : pendingAnswered .dup s = duplicateAnswered s := rfl

@[simp] theorem pendingAnswered_invalid (s : State) : pendingAnswered .invalid s = invalidAnswered s := rfl

theorem rejected_at_once {p : Pending} (hd : s.params.drainOnReject = false) :
    rejected p s = pendingAnswered p s := if_neg (by simp [hd])

theorem respondPending_dup (hp : s.pend = .dup) : respondPending s = .next (duplicateAnswered s) := by
  simp only [respondPending, hp, respondDup_eq]

theorem respondPending_invalid (hp : s.pend = .invalid) : respondPending s = .next (invalidAnswered s) := by
  simp only [respondPending, hp, respondInvalid_eq]

theorem respondPending_eq (hp : s.pend = .dup ∨ s.pend = .invalid) :
    respondPending s = .next (pendingAnswered s.pend s) := by
  rcases hp with hp | hp
  · rw [respondPending_dup hp, hp, pendingAnswered_dup]
  · rw [respondPending_invalid hp, hp, pendingAnswered_invalid]

end

/-! The complement byte (R110, R206, R207). -/

section
variable {s : State}

theorem seq_ne_prev (r : Byte) : r ≠ r + 255#8 := by bv_omega

theorem complemented_dup (hr : s.rseq = s.seq + 255#8) : complemented s = rejected .dup s := by
  simp [complemented, classify, seqPrev, hr]

theorem complemented_sync (hr : s.rseq ≠ s.seq + 255#8) (hs : s.rseq ≠ s.seq) :
    complemented s = desynchronised s := by
  simp [complemented, classify, seqPrev, hr, hs]

theorem complemented_invalid (hr : s.rseq = s.seq) (hc : s.rcmp ≠ complement s.rseq) :
    complemented s = rejected .invalid s := by
  rw [hr] at hc
  simp only [complemented, classify, seqPrev, hr, if_neg (seq_ne_prev s.seq), ne_eq, not_true_eq_false, if_false,
    if_pos hc]

theorem complemented_candidate (hr : s.rseq = s.seq) (hc : s.rcmp = complement s.rseq) :
    complemented s = { s with idx := 0#11, st := .rxData } := by
  rw [hr] at hc
  simp only [complemented, classify, seqPrev, hr, hc, if_neg (seq_ne_prev s.seq), ne_eq, not_true_eq_false, if_false]

end

/-- Settles O24: the class of the frame, then DRAIN_ON_REJECT, then the bound. -/
theorem complementByteClassifies : Obligations.ComplementByteClassifies := by
  intro s i c rest hi hst hrx
  have hexec : exec i s = .next (complemented { popped rest s with rcmp := c }) :=
    (exec_rxCmpl hi hst hrx).trans (complementByte_eq c (popped rest s))
  -- the state the frame is classified in
  set u : State := { popped rest s with rcmp := c }
  refine ⟨fun hr hd => ?_, fun hr hd => ?_, fun hr hs => ?_, fun hr hc hd => ?_, fun hr hc hd hn => ?_,
    fun hr hc hd hn => ?_, fun hr hc => ?_⟩
  · rw [hexec, complemented_dup (s := u) hr, rejected_drained (s := u) hd]
    rfl
  · rw [hexec, complemented_dup (s := u) hr, rejected_at_once (s := u) hd]
    rfl
  · rw [hexec, complemented_sync (s := u) hr hs]
    rfl
  · rw [hexec, complemented_invalid (s := u) hr hc, rejected_drained (s := u) hd]
    rfl
  · rw [hexec, complemented_invalid (s := u) hr hc, rejected_at_once (s := u) hd,
      pendingAnswered_invalid, invalidAnswered_last (s := u) hn]
    rfl
  · rw [hexec, complemented_invalid (s := u) hr hc, rejected_at_once (s := u) hd,
      pendingAnswered_invalid, invalidAnswered_again (s := u) hn]
    rfl
  · rw [hexec, complemented_candidate (s := u) hr hc]
    rfl

/-! The bytes after it (R208, R209). -/

section
variable {s : State} {b : Byte} {tl : Nat}

/-- A frame's field fits FB, so IDX counts its bytes without a wrap (R41, R74). -/
theorem frame_le_fbSize (htl : trailerLength s.ckm = some tl) : bsz s + tl ≤ fbSize := by
  have hsize : bsz s ≤ 1024 := blockSize_le _
  have htl2 := (trailerLength_le htl).2
  simp only [fbSize]
  omega

theorem idx_add_toNat {n : Nat} (htl : trailerLength s.ckm = some tl) (hle : s.idx.toNat + n ≤ bsz s + tl) :
    (s.idx + BitVec.ofNat 11 n).toNat = s.idx.toNat + n := by
  have hfit := frame_le_fbSize htl
  simp only [fbSize] at hfit
  rw [BitVec.toNat_add, BitVec.toNat_ofNat]
  omega

theorem dataByte_before_last (htl : trailerLength s.ckm = some tl) (hlt : s.idx.toNat + 1 < bsz s + tl) :
    dataByte b s = .next (stored b s) := by
  have hfit := frame_le_fbSize htl
  rw [dataByte_ok htl (by omega), idx_add_toNat htl hlt.le, if_neg hlt.ne]

theorem dataByte_last (htl : trailerLength s.ckm = some tl) (heq : s.idx.toNat + 1 = bsz s + tl) :
    dataByte b s = .next (verified tl (stored b s)) := by
  have hfit := frame_le_fbSize htl
  rw [dataByte_ok htl (by omega), idx_add_toNat htl heq.le, if_pos heq]

theorem verified_good
    (hck : ckAppend s.params.checksum s.ckm (s.fb.readN 0 (bsz s)) = some (s.fb.readN (bsz s) tl)) :
    verified tl s = accepted s := if_pos (beq_iff_eq.mpr hck)

theorem verified_bad
    (hck : ckAppend s.params.checksum s.ckm (s.fb.readN 0 (bsz s)) ≠ some (s.fb.readN (bsz s) tl)) :
    verified tl s = invalidAnswered s := if_neg (mt beq_iff_eq.mp hck)

/-- What n bytes of a drained frame leave when more are to come (R209). -/
def counted (n : Nat) (s : State) : State := { s with idx := s.idx + BitVec.ofNat 11 n }

theorem drainByte_before_last (htl : trailerLength s.ckm = some tl) (hlt : s.idx.toNat + 1 < bsz s + tl) :
    drainByte s = .next (counted 1 s) := by
  unfold drainByte
  simp only [htl, idx_add_toNat htl hlt.le]
  exact if_neg hlt.ne

theorem drainByte_last (htl : trailerLength s.ckm = some tl) (heq : s.idx.toNat + 1 = bsz s + tl) :
    drainByte s = respondPending (counted 1 s) := by
  unfold drainByte
  simp only [htl, idx_add_toNat htl heq.le]
  exact if_pos heq

end

/-- Settles O25: the byte's place in the frame, then the trailer, then the bound. -/
theorem dataByteStoredAndFrameVerified : Obligations.DataByteStoredAndFrameVerified := by
  intro s i b rest tl fb hi hst hrx htl hfb
  subst hfb
  have hexec : exec i s = dataByte b (popped rest s) := exec_rxData hi hst hrx
  -- the state the frame is verified in
  set u := stored b (popped rest s)
  refine ⟨fun hlt => hexec.trans (dataByte_before_last htl hlt), fun heq hck => ?_, fun heq hck hn => ?_,
    fun heq hck hn => ?_⟩
  · rw [hexec, dataByte_last (s := popped rest s) htl heq, verified_good (s := u) hck]
    rfl
  · rw [hexec, dataByte_last (s := popped rest s) htl heq, verified_bad (s := u) hck, invalidAnswered_last (s := u) hn]
    rfl
  · rw [hexec, dataByte_last (s := popped rest s) htl heq, verified_bad (s := u) hck,
      invalidAnswered_again (s := u) hn]
    rfl

/-- Settles O26: the byte's place in the frame, then PEND, then the bound. -/
theorem drainedFrameIsAnswered : Obligations.DrainedFrameIsAnswered := by
  intro s i b rest tl hi hst hrx htl
  have hexec : exec i s = drainByte (popped rest s) := exec_rxDrain hi hst hrx
  -- the state the frame is answered in
  set u := counted 1 (popped rest s)
  refine ⟨fun hlt => hexec.trans (drainByte_before_last htl hlt), fun heq hp => ?_, fun heq hp hn => ?_,
    fun heq hp hn => ?_⟩
  · rw [hexec, drainByte_last (s := popped rest s) htl heq, respondPending_dup (s := u) hp]
    rfl
  · rw [hexec, drainByte_last (s := popped rest s) htl heq, respondPending_invalid (s := u) hp,
      invalidAnswered_last (s := u) hn]
    rfl
  · rw [hexec, drainByte_last (s := popped rest s) htl heq, respondPending_invalid (s := u) hp,
      invalidAnswered_again (s := u) hn]
    rfl

/-! The expiries (R210, R211, R222). -/

theorem expire_invalid {s : State}
    (h : s.st = .rxSeq ∨ s.st = .rxCmpl ∨ s.st = .rxData ∨ (s.st = .rxDrain ∧ s.pend = .invalid)) :
    expire s = .next (invalidAnswered s) := by
  rcases h with hst | hst | hst | ⟨hst, hp⟩
  · simp only [expire, hst, frameExpiry, respondInvalid_eq]
  · simp only [expire, hst, frameExpiry, respondInvalid_eq]
  · simp only [expire, hst, frameExpiry, respondInvalid_eq]
  · simp only [expire, hst, drainExpiry, respondPending_invalid hp]

theorem expire_drained_dup {s : State} (hst : s.st = .rxDrain) (hp : s.pend = .dup) :
    expire s = .next (duplicateAnswered s) := by
  simp only [expire, hst, drainExpiry, respondPending_dup hp]

theorem expire_rxNextWait {s : State} (hst : s.st = .rxNextWait) : expire s = rxNextExpiry s := by
  simp only [expire, hst]

/-- Settles O27: the poll serves the expiry, by the frame state and PEND. -/
theorem frameExpiryIsAnswered : Obligations.FrameExpiryIsAnswered := by
  intro s hr hrx he hs
  have hstep (hb : s.busy = true) : step s = expire { s with sched := s.sched.rest } := step_expiry hs hr hb hrx he
  refine ⟨fun hst => ?_, fun hst hp => ?_⟩
  · have hb : s.busy = true := by rcases hst with hst | hst | hst | ⟨hst, -⟩ <;> simp [busy_iff, hst]
    have hanswer := (hstep hb).trans (expire_invalid (s := { s with sched := s.sched.rest }) hst)
    exact ⟨fun hn => hanswer.trans (congrArg Host.Outcome.next (invalidAnswered_last hn)),
      fun hn => hanswer.trans (congrArg Host.Outcome.next (invalidAnswered_again hn))⟩
  · exact (hstep (by simp [busy_iff, hst])).trans (expire_drained_dup (s := { s with sched := s.sched.rest }) hst hp)

theorem rxNextExpiry_last {s : State} (hn : s.rtry + 1#8 = s.params.nRxNext) :
    rxNextExpiry s = .next (endSession .rxNoData (cancelSignal { s with rtry := s.rtry + 1#8 })) := if_pos hn

/-- Settles O29: the poll serves the expiry, on either side of the bound. -/
theorem nextBlockExpiryRepeatsResponse : Obligations.NextBlockExpiryRepeatsResponse := by
  intro s hr hst hrx he hs
  have hb : s.busy = true := by simp [busy_iff, hst]
  have hstep : step s = rxNextExpiry { s with sched := s.sched.rest } :=
    (step_expiry hs hr hb hrx he).trans (expire_rxNextWait hst)
  exact ⟨fun hn => hstep.trans (rxNextExpiry_last hn), fun hn => hstep.trans (rxNextExpiry_again hn)⟩

/-! A peer that falls silent between blocks. -/

/-- The last response, by LAST (R40, R222). -/
def lastResponse (s : State) : Byte := if s.last then ACK else NAK

/-- What an expiry below the bound leaves (R222). -/
def responseRepeated (s : State) : State :=
  { s with rtry := s.rtry + 1#8, tx := s.tx ++ [lastResponse s], deadline := some .rxNext, expired := false }

/-- From any attempt of the wait on, the expiries still to come use up the bound (R222). -/
theorem run_silent_next_wait (k : Nat) :
    ∀ s : State, s.reservedField = none → s.st = .rxNextWait → s.rx = [] → s.deadline = some .rxNext →
      s.rtry.toNat + (k + 1) = s.params.nRxNext.toNat →
      s.sched.ahead (2 * (k + 1)) = (List.replicate (k + 1) [Turn.timer, Turn.engine]).flatten →
      ∃ t : State, Host.Core.run core (2 * (k + 1)) s = .next t ∧ t.st = .done ∧ t.result = 0x58#8 ∧
        t.rtry = s.params.nRxNext ∧ t.err = s.err ∧ t.seq = s.seq ∧ t.dst = s.dst ∧
        t.tx = s.tx ++ List.replicate k (lastResponse s) ++ [CAN, CAN] := by
  induction k with
  | zero =>
    intro s hr hst hrx hd hcount hs
    have hb : s.busy = true := by simp [busy_iff, hst]
    have hn : s.rtry + 1#8 = s.params.nRxNext := by bv_omega
    have hserved := (expire_rxNextWait (s := atExpiry s) hst).trans (rxNextExpiry_last hn)
    refine ⟨_, run_expiry hr hb hrx hd hs hserved, rfl, rfl, hn, rfl, rfl, rfl, ?_⟩
    simp [atExpiry]
  | succ k ih =>
    intro s hr hst hrx hd hcount hs
    have hb : s.busy = true := by simp [busy_iff, hst]
    have hn : s.rtry + 1#8 ≠ s.params.nRxNext := by bv_omega
    have hcount' : (s.rtry + 1#8).toNat + (k + 1) = s.params.nRxNext.toNat := by bv_omega
    have hserved : expire (atExpiry s) = .next (responseRepeated (atExpiry s)) :=
      (expire_rxNextWait (s := atExpiry s) hst).trans (rxNextExpiry_again hn)
    rw [show 2 * (k + 1 + 1) = 2 + 2 * (k + 1) by omega] at hs ⊢
    obtain ⟨hround, hlater⟩ := ahead_append (l := [.timer, .engine]) hs rfl
    obtain ⟨t, ht, hdone, hresult, hrtry, herr, hseq, hdst, htx⟩ :=
      ih (responseRepeated (atExpiry s)) hr hst hrx rfl hcount' hlater
    refine ⟨t, (run_trans (run_expiry hr hb hrx hd hround hserved)).trans ht, hdone, hresult, hrtry, herr, hseq, hdst,
      htx.trans ?_⟩
    have hsent : (responseRepeated (atExpiry s)).tx = s.tx ++ [lastResponse s] := rfl
    have hlast : lastResponse (responseRepeated (atExpiry s)) = lastResponse s := rfl
    simp [List.replicate_succ, hsent, hlast]

/-- Settles O55, from the first expiry on. -/
theorem silenceAfterBlockEndsReceive : Obligations.SilenceAfterBlockEndsReceive := by
  intro s n hr hst hrx hrtry hd hbound hpos hle hs
  obtain ⟨k, rfl⟩ : ∃ k, n = k + 1 := ⟨n - 1, by omega⟩
  have hcount : s.rtry.toNat + (k + 1) = s.params.nRxNext.toNat := by
    rw [hrtry, hbound, BitVec.toNat_ofNat, BitVec.toNat_ofNat]
    omega
  exact run_silent_next_wait k s hr hst hrx hd hcount hs

end Sys2Proof.Laws
end

section
/-!
PROOFS. Scope: whole frames of the receiver, byte by byte: what the bytes of a frame leave, whether they wait in RX or
arrive one at a time, for a good frame (spec/42_receiver.md R204 to R208, R215) and a duplicate (R209, R216, R224).
-/

namespace Sys2Proof.Laws

open Sys2Proof Sys2Proof.Machine Sys2Proof.Config Sys2Proof.Safety

/-! Bytes taken one after the other. -/

/-- The state with other turns to come and other bytes unread. -/
def withInput (c : Schedule) (r : List Byte) (s : State) : State := { s with sched := c, rx := r }

/-- A poll of s that finds the byte b leaves t, whatever turns are to come and whatever bytes wait behind b. -/
structure Takes (b : Byte) (s t : State) : Prop where
  legal : s.reservedField = none
  busy : s.busy = true
  rule : ∀ c r, exec (decodeByte b) (withInput c (b :: r) s) = .next (withInput c r t)

/-- Polls that find the bytes in order lead from s to t. -/
inductive TakesAll : List Byte → State → State → Prop
  | nil (s : State) : TakesAll [] s s
  | cons {b : Byte} {bs : List Byte} {s u t : State} (h : Takes b s u) (hs : TakesAll bs u t) : TakesAll (b :: bs) s t

theorem Takes.all {b : Byte} {s t : State} (h : Takes b s t) : TakesAll [b] s t := .cons h (.nil t)

theorem TakesAll.append {bs bs' : List Byte} {s u t : State} (h : TakesAll bs s u) (h' : TakesAll bs' u t) :
    TakesAll (bs ++ bs') s t := by
  induction h with
  | nil => exact h'
  | cons hb _ ih => exact .cons hb (ih h')

/-- Bytes that wait in RX are taken in one poll each. -/
theorem TakesAll.run_polls {bs : List Byte} {s t : State} (h : TakesAll bs s t) :
    ∀ (c : Schedule) (r : List Byte), c.ahead bs.length = List.replicate bs.length .engine →
      Host.Core.run core bs.length (withInput c (bs ++ r) s) = .next (withInput (c.drop bs.length) r t) := by
  induction h with
  | nil => exact fun _ _ _ => rfl
  | @cons b bs s u t hb _ ih =>
    intro c r hs
    rw [List.length_cons, ahead_succ, List.replicate_succ, List.cons.injEq] at hs
    obtain ⟨hengine, hlater⟩ := hs
    have hstep : step (withInput c (b :: (bs ++ r)) s) = .next (withInput c.rest (bs ++ r) u) :=
      (step_byte (s := withInput c (b :: (bs ++ r)) s) hengine hb.legal hb.busy rfl).trans (hb.rule c.rest (bs ++ r))
    rw [List.length_cons, drop_succ]
    exact (run_step hstep).trans (ih c.rest r hlater)

theorem run_waiting {bs rest : List Byte} {s t : State} {n : Nat} (h : TakesAll bs s t) (hrx : s.rx = bs ++ rest)
    (hn : bs.length = n) (hs : s.sched.ahead n = List.replicate n .engine) :
    Host.Core.run core n s = .next (withInput (s.sched.drop n) rest t) := by
  subst hn
  have hrun := h.run_polls s.sched rest hs
  rwa [← hrx] at hrun

/-- The turns by which bytes arrive and are polled one at a time. -/
def byteTurns (bs : List Byte) : List Turn := (bs.map (fun b => [Turn.peer b, Turn.engine])).flatten

theorem byteTurns_length (bs : List Byte) : (byteTurns bs).length = 2 * bs.length := by
  induction bs with
  | nil => rfl
  | cons b bs ih =>
    have hcons : byteTurns (b :: bs) = .peer b :: .engine :: byteTurns bs := rfl
    simp only [hcons, List.length_cons, ih]
    omega

/-- Bytes that arrive at an empty RX are taken in two turns each. -/
theorem TakesAll.run_arrivals {bs : List Byte} {s t : State} (h : TakesAll bs s t) :
    ∀ c : Schedule, c.ahead (2 * bs.length) = byteTurns bs →
      Host.Core.run core (2 * bs.length) (withInput c [] s) = .next (withInput (c.drop (2 * bs.length)) [] t) := by
  induction h with
  | nil => exact fun _ _ => rfl
  | @cons b bs s u t hb _ ih =>
    intro c hs
    rw [List.length_cons, show 2 * (bs.length + 1) = 2 + 2 * bs.length by omega] at hs ⊢
    obtain ⟨hfirst, hlater⟩ := ahead_append (l := [.peer b, .engine]) hs rfl
    have hbyte : Host.Core.run core 2 (withInput c [] s) = .next (withInput (c.drop 2) [] u) :=
      run_byte hb.legal hb.busy rfl hfirst (hb.rule (c.drop 2) [])
    rw [run_trans hbyte, drop_add]
    exact ih (c.drop 2) hlater

/-! No answer depends on the turns to come or the bytes unread. -/

theorem invalidAnswered_withInput (c : Schedule) (r : List Byte) (s : State) :
    invalidAnswered (withInput c r s) = withInput c r (invalidAnswered s) := by
  by_cases hn : s.err + 1#8 = s.params.nMaxErr
  · rw [invalidAnswered_last hn, invalidAnswered_last (s := withInput c r s) hn]
    rfl
  · rw [invalidAnswered_again hn, invalidAnswered_again (s := withInput c r s) hn]
    rfl

theorem verified_withInput (tl : Nat) (c : Schedule) (r : List Byte) (s : State) :
    verified tl (withInput c r s) = withInput c r (verified tl s) := by
  by_cases hck : ckAppend s.params.checksum s.ckm (s.fb.readN 0 (bsz s)) = some (s.fb.readN (bsz s) tl)
  · rw [verified_good hck, verified_good (s := withInput c r s) hck]
    rfl
  · rw [verified_bad hck, verified_bad (s := withInput c r s) hck, invalidAnswered_withInput]

theorem pendingAnswered_withInput (p : Pending) (c : Schedule) (r : List Byte) (s : State) :
    pendingAnswered p (withInput c r s) = withInput c r (pendingAnswered p s) := by
  unfold pendingAnswered
  split
  · rfl
  · exact invalidAnswered_withInput c r s

theorem rejected_withInput (p : Pending) (c : Schedule) (r : List Byte) (s : State) :
    rejected p (withInput c r s) = withInput c r (rejected p s) := by
  cases hd : s.params.drainOnReject with
  | true =>
    rw [rejected_drained hd, rejected_drained (s := withInput c r s) hd]
    rfl
  | false => rw [rejected_at_once hd, rejected_at_once (s := withInput c r s) hd, pendingAnswered_withInput]

theorem complemented_withInput (c : Schedule) (r : List Byte) (s : State) :
    complemented (withInput c r s) = withInput c r (complemented s) := by
  unfold complemented
  dsimp only [withInput]
  cases classify s.seq s.rseq s.rcmp
  · exact rejected_withInput .dup c r s
  · rfl
  · exact rejected_withInput .invalid c r s
  · rfl

/-! One byte of a frame, by the state that takes it. -/

/-- Reserved encodings stand in ST, CKM, PEND and RESULT only (R49). -/
theorem reservedField_of_kept {s t : State} (hr : s.reservedField = none) (hst : t.st.isReserved = false)
    (hckm : t.ckm = s.ckm) (hpend : t.pend = s.pend) (hres : t.result = s.result) : t.reservedField = none := by
  obtain ⟨-, hlegal⟩ := (reservedField_eq_none_iff s).mp hr
  rw [reservedField_eq_none_iff, hckm, hpend, hres]
  exact ⟨hst, hlegal⟩

section
variable {s : State} {b : Byte} {tl : Nat} (hr : s.reservedField = none)
include hr

theorem takes_header (hst : s.st = .rxHsWait ∨ s.st = .rxNextWait) (x : Bool) :
    Takes (header x) s (frameBegun x s) := by
  refine ⟨hr, by rcases hst with hst | hst <;> simp [busy_iff, hst], fun c r => ?_⟩
  rcases hst with hst | hst <;> cases x
  · exact eventColumn_rxHsWait hst rfl
  · exact eventColumn_rxHsWait hst rfl
  · exact eventColumn_rxNextWait hst rfl
  · exact eventColumn_rxNextWait hst rfl

theorem takes_sequence (hst : s.st = .rxSeq) : Takes b s { s with rseq := b, st := .rxCmpl } :=
  ⟨hr, by simp [busy_iff, hst], fun c r => exec_rxSeq (s := withInput c (b :: r) s) (encode_decodeByte b) hst rfl⟩

theorem takes_complement (hst : s.st = .rxCmpl) : Takes b s (complemented { s with rcmp := b }) := by
  refine ⟨hr, by simp [busy_iff, hst], fun c r => ?_⟩
  rw [← complemented_withInput]
  exact (exec_rxCmpl (s := withInput c (b :: r) s) (encode_decodeByte b) hst rfl).trans (complementByte_eq b _)

theorem takes_data (hst : s.st = .rxData) (htl : trailerLength s.ckm = some tl) (hlt : s.idx.toNat + 1 < bsz s + tl) :
    Takes b s (stored b s) :=
  ⟨hr, by simp [busy_iff, hst], fun c r =>
    (exec_rxData (s := withInput c (b :: r) s) (encode_decodeByte b) hst rfl).trans
      (dataByte_before_last (s := withInput c r s) htl hlt)⟩

theorem takes_lastData (hst : s.st = .rxData) (htl : trailerLength s.ckm = some tl)
    (heq : s.idx.toNat + 1 = bsz s + tl) : Takes b s (verified tl (stored b s)) := by
  refine ⟨hr, by simp [busy_iff, hst], fun c r => ?_⟩
  rw [← verified_withInput]
  exact (exec_rxData (s := withInput c (b :: r) s) (encode_decodeByte b) hst rfl).trans
    (dataByte_last (s := withInput c r s) htl heq)

theorem takes_drain (hst : s.st = .rxDrain) (htl : trailerLength s.ckm = some tl)
    (hlt : s.idx.toNat + 1 < bsz s + tl) : Takes b s (counted 1 s) :=
  ⟨hr, by simp [busy_iff, hst], fun c r =>
    (exec_rxDrain (s := withInput c (b :: r) s) (encode_decodeByte b) hst rfl).trans
      (drainByte_before_last (s := withInput c r s) htl hlt)⟩

theorem takes_lastDrain (hst : s.st = .rxDrain) (htl : trailerLength s.ckm = some tl)
    (hp : s.pend = .dup ∨ s.pend = .invalid) (heq : s.idx.toNat + 1 = bsz s + tl) :
    Takes b s (pendingAnswered s.pend (counted 1 s)) := by
  refine ⟨hr, by simp [busy_iff, hst], fun c r => ?_⟩
  rw [← pendingAnswered_withInput]
  exact (exec_rxDrain (s := withInput c (b :: r) s) (encode_decodeByte b) hst rfl).trans
    ((drainByte_last (s := withInput c r s) htl heq).trans (respondPending_eq (s := withInput c r (counted 1 s)) hp))

end

/-! The bytes of a payload and its trailer. -/

/-- FB after the bytes are written one at a time from a up. -/
def writeEach (m : Memory) (a : Nat) : List Byte → Memory
  | [] => m
  | b :: bs => writeEach (m.write a [b]) (a + 1) bs

theorem writeEach_concat (m : Memory) (a : Nat) (bs : List Byte) (b : Byte) :
    writeEach m a (bs ++ [b]) = (writeEach m a bs).write (a + bs.length) [b] := by
  induction bs generalizing m a with
  | nil => rfl
  | cons b' bs ih =>
    rw [List.cons_append, writeEach, ih, List.length_cons, Nat.add_right_comm, ← Nat.add_assoc]
    rfl

/-- Bytes written one at a time read back as bytes written at once. -/
theorem read_writeEach (m : Memory) (a : Nat) (bs : List Byte) (x : Nat) :
    (writeEach m a bs).read x = (m.write a bs).read x := by
  induction bs generalizing m a with
  | nil => rw [writeEach, read_write_outside m a [] x (Nat.lt_or_ge x a)]
  | cons b bs ih =>
    rw [writeEach, ih]
    rcases Nat.lt_trichotomy x a with hlt | rfl | hgt
    · rw [read_write_outside _ _ _ _ (by omega), read_write_outside _ _ _ _ (.inl hlt),
        read_write_outside _ _ _ _ (.inl hlt)]
    · rw [read_write_outside _ _ _ _ (by omega)]
      simp [read_write]
    · rw [read_write _ _ bs, read_write_outside m a [b] x (.inr hgt), read_write m a (b :: bs),
        show x - a = x - (a + 1) + 1 by omega, List.getD_cons_succ, List.length_cons]
      exact if_congr (by omega) rfl rfl

theorem readN_writeEach (m : Memory) (a : Nat) (bs : List Byte) : (writeEach m a bs).readN a bs.length = bs :=
  (readN_congr _ _ _ _ fun _ _ => read_writeEach m a bs _).trans (readN_write_self m a bs)

theorem readN_add (m : Memory) (a k n : Nat) : m.readN a (k + n) = m.readN a k ++ m.readN (a + k) n := by
  simp [Memory.readN, List.range_add, Nat.add_assoc]

/-- What bytes of RX_DATA leave when more are to come (R208). -/
def filled (bs : List Byte) (s : State) : State :=
  { s with fb := writeEach s.fb s.idx.toNat bs, idx := s.idx + BitVec.ofNat 11 bs.length }

section
variable {s : State} {tl : Nat}

theorem filled_nil (s : State) : filled [] s = s := by simp [filled, writeEach]

theorem stored_filled {bs : List Byte} {b : Byte} (htl : trailerLength s.ckm = some tl)
    (hle : s.idx.toNat + bs.length ≤ bsz s + tl) : stored b (filled bs s) = filled (bs ++ [b]) s := by
  have hidx : (filled bs s).idx.toNat = s.idx.toNat + bs.length := idx_add_toNat htl hle
  rw [stored, hidx, filled, filled, writeEach_concat, List.length_append, List.length_singleton, BitVec.ofNat_add,
    BitVec.add_assoc]

theorem counted_zero (s : State) : counted 0 s = s := by simp [counted]

theorem counted_counted (k n : Nat) (s : State) : counted n (counted k s) = counted (k + n) s := by
  simp only [counted, BitVec.ofNat_add, BitVec.add_assoc]

variable (hr : s.reservedField = none) (htl : trailerLength s.ckm = some tl)
include hr htl

theorem takesAll_data (hst : s.st = .rxData) {bs : List Byte} (hlt : s.idx.toNat + bs.length < bsz s + tl) :
    TakesAll bs s (filled bs s) := by
  induction bs using List.reverseRecOn with
  | nil => exact (filled_nil s).symm ▸ .nil s
  | append_singleton bs b ih =>
    rw [List.length_append, List.length_singleton] at hlt
    have hidx : (filled bs s).idx.toNat = s.idx.toNat + bs.length := idx_add_toNat htl (by omega)
    rw [← stored_filled htl (by omega)]
    exact (ih (by omega)).append (takes_data (s := filled bs s) hr hst htl (by rw [hidx]; exact hlt)).all

theorem takesAll_wholeData (hst : s.st = .rxData) {bs : List Byte} (hpos : bs ≠ [])
    (heq : s.idx.toNat + bs.length = bsz s + tl) : TakesAll bs s (verified tl (filled bs s)) := by
  obtain ⟨bs, b, rfl⟩ := List.eq_nil_or_concat' bs |>.resolve_left hpos
  rw [List.length_append, List.length_singleton] at heq
  have hidx : (filled bs s).idx.toNat = s.idx.toNat + bs.length := idx_add_toNat htl (by omega)
  rw [← stored_filled htl (by omega)]
  exact (takesAll_data hr htl hst (by omega)).append
    (takes_lastData (s := filled bs s) hr hst htl (by rw [hidx]; exact heq)).all

theorem takesAll_drain (hst : s.st = .rxDrain) {bs : List Byte} (hlt : s.idx.toNat + bs.length < bsz s + tl) :
    TakesAll bs s (counted bs.length s) := by
  induction bs using List.reverseRecOn with
  | nil => exact (counted_zero s).symm ▸ .nil s
  | append_singleton bs b ih =>
    rw [List.length_append, List.length_singleton] at hlt ⊢
    have hidx : (counted bs.length s).idx.toNat = s.idx.toNat + bs.length := idx_add_toNat htl (by omega)
    rw [← counted_counted]
    exact (ih (by omega)).append (takes_drain (s := counted bs.length s) hr hst htl (by rw [hidx]; exact hlt)).all

theorem takesAll_wholeDrain (hst : s.st = .rxDrain) (hp : s.pend = .dup ∨ s.pend = .invalid) {bs : List Byte}
    (hpos : bs ≠ []) (heq : s.idx.toNat + bs.length = bsz s + tl) :
    TakesAll bs s (pendingAnswered s.pend (counted bs.length s)) := by
  obtain ⟨bs, b, rfl⟩ := List.eq_nil_or_concat' bs |>.resolve_left hpos
  rw [List.length_append, List.length_singleton] at heq ⊢
  have hidx : (counted bs.length s).idx.toNat = s.idx.toNat + bs.length := idx_add_toNat htl (by omega)
  rw [← counted_counted]
  exact (takesAll_drain hr htl hst (by omega)).append
    (takes_lastDrain (s := counted bs.length s) hr hst htl hp (by rw [hidx]; exact heq)).all

end

/-! From the header byte on. -/

/-- The state that waits for the complement byte (R204, R205). -/
def sequenceRead (x : Bool) (q : Byte) (s : State) : State := { frameBegun x s with rseq := q, st := .rxCmpl }

/-- The state a frame is classified in (R206). -/
def headerRead (x : Bool) (q c : Byte) (s : State) : State := { sequenceRead x q s with rcmp := c }

/-- The state in which the bytes of a candidate are stored (R206). -/
def candidateBegun (x : Bool) (s : State) : State :=
  { headerRead x s.seq (complement s.seq) s with idx := 0#11, st := .rxData }

/-- The state in which the bytes of a rejected frame are drained (R206). -/
def drainBegun (x : Bool) (q c : Byte) (p : Pending) (s : State) : State :=
  { headerRead x q c s with pend := p, idx := 0#11, st := .rxDrain }

theorem counted_drainBegun (n : Nat) (x : Bool) (q c : Byte) (p : Pending) (s : State) :
    counted n (drainBegun x q c p s) = { drainBegun x q c p s with idx := BitVec.ofNat 11 n } := by
  simp [counted, drainBegun]

section
variable {s : State} (hr : s.reservedField = none) (hst : s.st = .rxHsWait ∨ s.st = .rxNextWait)
include hr

theorem frameBegun_legal (x : Bool) : (frameBegun x s).reservedField = none :=
  reservedField_of_kept hr rfl rfl rfl rfl

theorem sequenceRead_legal (x : Bool) (q : Byte) : (sequenceRead x q s).reservedField = none :=
  reservedField_of_kept hr rfl rfl rfl rfl

theorem candidateBegun_legal (x : Bool) : (candidateBegun x s).reservedField = none :=
  reservedField_of_kept hr rfl rfl rfl rfl

theorem drainBegun_legal (x : Bool) (q c : Byte) {p : Pending} (hp : p = .dup ∨ p = .invalid) :
    (drainBegun x q c p s).reservedField = none := by
  obtain ⟨-, hckm, -, hres⟩ := (reservedField_eq_none_iff s).mp hr
  exact (reservedField_eq_none_iff _).mpr ⟨rfl, hckm, by rcases hp with rfl | rfl <;> nofun, hres⟩

include hst

theorem takesAll_begin (x : Bool) (q : Byte) : TakesAll [header x, q] s (sequenceRead x q s) :=
  .cons (takes_header hr hst x) (takes_sequence (frameBegun_legal hr x) rfl).all

theorem takesAll_classify (x : Bool) (q c : Byte) :
    TakesAll [header x, q, c] s (complemented (headerRead x q c s)) :=
  (takesAll_begin hr hst x q).append (takes_complement (sequenceRead_legal hr x q) rfl).all

theorem takesAll_candidate (x : Bool) :
    TakesAll [header x, s.seq, complement s.seq] s (candidateBegun x s) := by
  have hclass := takesAll_classify hr hst x s.seq (complement s.seq)
  rwa [complemented_candidate (s := headerRead x s.seq (complement s.seq) s) rfl rfl] at hclass

theorem takesAll_rejected {x : Bool} {q c : Byte} {p : Pending} (hd : s.params.drainOnReject = true)
    (hclass : complemented (headerRead x q c s) = rejected p (headerRead x q c s)) :
    TakesAll [header x, q, c] s (drainBegun x q c p s) := by
  have hread := takesAll_classify hr hst x q c
  rwa [hclass, rejected_drained (s := headerRead x q c s) hd] at hread

end

/-- FB holds the payload and the trailer read, so VERIFY compares these (R208). -/
theorem readN_filled {s : State} {p tr : List Byte} (hidx : s.idx = 0#11) (hp : p.length = bsz s) :
    (filled (p ++ tr) s).fb.readN 0 (bsz s) = p ∧ (filled (p ++ tr) s).fb.readN (bsz s) tr.length = tr := by
  have hread : (filled (p ++ tr) s).fb.readN 0 (p.length + tr.length) = p ++ tr := by
    rw [← List.length_append, filled, hidx]
    exact readN_writeEach s.fb 0 (p ++ tr)
  rw [readN_add, Nat.zero_add] at hread
  exact hp ▸ List.append_inj hread (by simp)

theorem verified_filled {s : State} {p tr : List Byte} (hidx : s.idx = 0#11) (hp : p.length = bsz s) :
    verified tr.length (filled (p ++ tr) s) =
      if ckVerify s.params.checksum s.ckm p tr then accepted (filled (p ++ tr) s)
      else invalidAnswered (filled (p ++ tr) s) := by
  obtain ⟨hpayload, htrailer⟩ := readN_filled (tr := tr) hidx hp
  have hverify : ckVerify s.params.checksum s.ckm ((filled (p ++ tr) s).fb.readN 0 (bsz s))
      ((filled (p ++ tr) s).fb.readN (bsz s) tr.length) = ckVerify s.params.checksum s.ckm p tr := by
    rw [hpayload, htrailer]
  exact if_congr (Bool.eq_iff_iff.mp hverify) rfl rfl

/-- The bytes of a whole frame with the current sequence number, up to the answer (R204 to R208). -/
theorem takesAll_candidateFrame {s : State} {x : Bool} {p tr : List Byte} (hr : s.reservedField = none)
    (hst : s.st = .rxHsWait ∨ s.st = .rxNextWait) (htl : trailerLength s.ckm = some tr.length)
    (hp : p.length = blockSize x) :
    TakesAll (frameBytes x s.seq p tr) s (verified tr.length (filled (p ++ tr) (candidateBegun x s))) := by
  have hpos : p ++ tr ≠ [] := by
    have hsize := blockSize_pos x
    intro hnil
    rw [(List.append_eq_nil_iff.mp hnil).1, List.length_nil] at hp
    omega
  have hlen : 0 + (p ++ tr).length = blockSize x + tr.length := by rw [List.length_append, hp, Nat.zero_add]
  exact (takesAll_candidate hr hst x).append (takesAll_wholeData (candidateBegun_legal hr x) htl rfl hpos hlen)

/-- Settles O51: the header, then payload and trailer, each byte at its poll. -/
theorem goodFrameIsAccepted : Obligations.GoodFrameIsAccepted := by
  intro s x p tr rest n hr hst hp htr hrx hn hs
  have hframe := takesAll_candidateFrame hr hst (ckAppend_length htr) hp
  have hck : ckVerify (candidateBegun x s).params.checksum (candidateBegun x s).ckm p tr = true := beq_iff_eq.mpr htr
  rw [verified_filled (s := candidateBegun x s) rfl hp, if_pos hck] at hframe
  obtain ⟨hpayload, -⟩ := readN_filled (s := candidateBegun x s) (tr := tr) rfl hp
  set v := filled (p ++ tr) (candidateBegun x s) with hv
  have hlen : (frameBytes x s.seq p tr).length = n := by rw [frameBytes_length, hn]
  refine ⟨v.fb, (run_waiting hframe hrx hlen hs).trans ?_, ?_, fun a ha => ?_⟩
  · have hidx : v.idx = BitVec.ofNat 11 (p.length + tr.length) := by simp [hv, filled, candidateBegun]
    have hpay : v.fb.readN 0 (bsz v) = p := hpayload
    simp only [accepted, hpay, ← hidx]
    rfl
  · rw [← List.length_append]
    exact readN_writeEach s.fb 0 (p ++ tr)
  · exact (read_writeEach s.fb 0 (p ++ tr) a).trans (read_write_outside _ _ _ _ (.inr (by simpa using ha)))

/-- The bytes of a frame rejected at its complement, where they are drained to the last one (R206, R209). -/
theorem takesAll_drained {s : State} {tl : Nat} {x : Bool} {q c : Byte} {p : Pending} {bs : List Byte}
    (hr : s.reservedField = none) (hst : s.st = .rxHsWait ∨ s.st = .rxNextWait) (htl : trailerLength s.ckm = some tl)
    (hp : p = .dup ∨ p = .invalid) (hd : s.params.drainOnReject = true)
    (hclass : complemented (headerRead x q c s) = rejected p (headerRead x q c s))
    (hlen : bs.length = blockSize x + tl) :
    TakesAll (header x :: q :: c :: bs) s (pendingAnswered p (counted bs.length (drainBegun x q c p s))) := by
  have hpos : bs ≠ [] := by
    have hsize := blockSize_pos x
    rintro rfl
    rw [List.length_nil] at hlen
    omega
  exact (takesAll_rejected hr hst hd hclass).append
    (takesAll_wholeDrain (drainBegun_legal hr x q c hp) htl rfl hp hpos ((Nat.zero_add _).trans hlen))

/-- Settles O52: the frame is drained and answered as a duplicate. -/
theorem duplicateFrameIsAckedAndDropped : Obligations.DuplicateFrameIsAckedAndDropped := by
  intro s x c bs rest tl n hr hst hd htl hlen hrx hn hs
  have hframe : TakesAll (header x :: (s.seq + 255#8) :: c :: bs) s
      (duplicateAnswered (counted bs.length (drainBegun x (s.seq + 255#8) c .dup s))) :=
    takesAll_drained hr hst htl (.inl rfl) hd (complemented_dup rfl) hlen
  have hcount : (header x :: (s.seq + 255#8) :: c :: bs).length = n := by
    simp only [List.length_cons, hn]
    omega
  refine (run_waiting hframe hrx hcount hs).trans ?_
  rw [counted_drainBegun]
  rfl

end Sys2Proof.Laws
end

section
/-!
PROOFS. Scope: frames a receiver does not accept, one after the other (spec/42_receiver.md R206, R208 to R211, R216,
R217, R226): each failed one brings ERR one nearer to its bound, each duplicate leaves it, the last ends the session.
-/

namespace Sys2Proof.Laws

open Sys2Proof Sys2Proof.Machine Sys2Proof.Config Sys2Proof.Safety

/-! The turns of one frame. -/

/-- The state in which a poll serves the deadline. -/
def timedOut (s : State) : State := { s with expired := true }

/-- The deadline that runs in s elapses, and the poll that serves it leaves t. -/
structure TimesOut (s t : State) : Prop where
  legal : s.reservedField = none
  busy : s.busy = true
  running : s.deadline = some .rxBlk
  served : ∀ c, expire (withInput c [] (timedOut s)) = .next (withInput c [] t)

theorem timesOut_invalid {s : State} (hr : s.reservedField = none) (hd : s.deadline = some .rxBlk)
    (hst : s.st = .rxSeq ∨ s.st = .rxCmpl ∨ s.st = .rxData ∨ (s.st = .rxDrain ∧ s.pend = .invalid)) :
    TimesOut s (invalidAnswered (timedOut s)) := by
  refine ⟨hr, by rcases hst with hst | hst | hst | ⟨hst, -⟩ <;> simp [busy_iff, hst], hd, fun c => ?_⟩
  rw [← invalidAnswered_withInput]
  exact expire_invalid hst

theorem timesOut_dup {s : State} (hr : s.reservedField = none) (hd : s.deadline = some .rxBlk) (hst : s.st = .rxDrain)
    (hp : s.pend = .dup) : TimesOut s (duplicateAnswered (timedOut s)) :=
  ⟨hr, by simp [busy_iff, hst], hd, fun _ => expire_drained_dup hst hp⟩

theorem timesOut_drained {s : State} (hr : s.reservedField = none) (hd : s.deadline = some .rxBlk)
    (hst : s.st = .rxDrain) (hp : s.pend = .dup ∨ s.pend = .invalid) :
    TimesOut s (pendingAnswered s.pend (timedOut s)) := by
  rcases hp with hp | hp <;> rw [hp]
  · exact timesOut_dup hr hd hst hp
  · exact timesOut_invalid hr hd (.inr (.inr (.inr ⟨hst, hp⟩)))

/-- The bytes of an attempt, and the deadline where it elapses, lead from s to t. -/
def AttemptLeaves (a : Attempt) (s t : State) : Prop :=
  if a.expires then ∃ u, TakesAll (header a.blk1k :: a.body) s u ∧ TimesOut u t
  else TakesAll (header a.blk1k :: a.body) s t

theorem attemptLeaves_of_expiry {a : Attempt} {s u t : State} (he : a.expires = true)
    (h : TakesAll (header a.blk1k :: a.body) s u) (ht : TimesOut u t) : AttemptLeaves a s t := by
  rw [AttemptLeaves, if_pos he]
  exact ⟨u, h, ht⟩

theorem attemptLeaves_of_whole {a : Attempt} {s t : State} (he : a.expires = false)
    (h : TakesAll (header a.blk1k :: a.body) s t) : AttemptLeaves a s t := by
  rw [AttemptLeaves, if_neg (by simp [he])]
  exact h

theorem attempt_turns (a : Attempt) :
    a.turns = byteTurns (header a.blk1k :: a.body) ++ if a.expires then [.timer, .engine] else [] := rfl

/-- The turns of an attempt run it. -/
theorem run_attempt {a : Attempt} {s t : State} (h : AttemptLeaves a s t) (hrx : s.rx = [])
    (hs : s.sched.ahead a.turns.length = a.turns) :
    Host.Core.run core a.turns.length s = .next (withInput (s.sched.drop a.turns.length) [] t) := by
  have hinput : withInput s.sched [] s = s := hrx ▸ rfl
  unfold AttemptLeaves at h
  cases he : a.expires with
  | true =>
    rw [if_pos he] at h
    obtain ⟨u, hbytes, htime⟩ := h
    rw [attempt_turns, he, if_pos rfl, List.length_append, byteTurns_length] at hs ⊢
    obtain ⟨harrive, hexpire⟩ := ahead_append hs (byteTurns_length _)
    have hrun := hbytes.run_arrivals s.sched harrive
    rw [hinput] at hrun
    rw [run_trans hrun, drop_add]
    exact run_expiry htime.legal htime.busy rfl htime.running hexpire (htime.served _)
  | false =>
    rw [if_neg (by simp [he])] at h
    rw [attempt_turns, he, if_neg Bool.false_ne_true, List.append_nil, byteTurns_length] at hs ⊢
    have hrun := h.run_arrivals s.sched hs
    rwa [hinput] at hrun

/-! What a frame keeps up to its answer. -/

/-- Inside the frame that begins in s nothing the later answers depend on has changed yet in u. -/
structure SessionKept (s u : State) : Prop where
  params : u.params = s.params
  ckm : u.ckm = s.ckm
  seq : u.seq = s.seq
  err : u.err = s.err
  tx : u.tx = s.tx
  dst : u.dst = s.dst
  legal : u.reservedField = none

section
variable {s : State} {a : Attempt} {tl : Nat} (hr : s.reservedField = none)
  (hst : s.st = .rxHsWait ∨ s.st = .rxNextWait) (htl : trailerLength s.ckm = some tl)
include hr hst

theorem cut_off_before_complement (hbody : a.body.length ≤ 1) (he : a.expires = true) :
    ∃ u, SessionKept s u ∧ AttemptLeaves a s (invalidAnswered u) := by
  match hb : a.body with
  | [] =>
    have hlegal := frameBegun_legal hr a.blk1k
    refine ⟨timedOut (frameBegun a.blk1k s), ⟨rfl, rfl, rfl, rfl, rfl, rfl, hlegal⟩,
      attemptLeaves_of_expiry he ?_ (timesOut_invalid hlegal rfl (.inl rfl))⟩
    rw [hb]
    exact (takes_header hr hst a.blk1k).all
  | [q] =>
    have hlegal := sequenceRead_legal hr a.blk1k q
    refine ⟨timedOut (sequenceRead a.blk1k q s), ⟨rfl, rfl, rfl, rfl, rfl, rfl, hlegal⟩,
      attemptLeaves_of_expiry he ?_ (timesOut_invalid hlegal rfl (.inr (.inl rfl)))⟩
    rw [hb]
    exact takesAll_begin hr hst a.blk1k q
  | _ :: _ :: _ => simp [hb] at hbody

include htl

/-- A frame rejected at its complement byte gets the answer of its class, drained or not, whole or cut off. -/
theorem rejected_frame_answered {p : Pending} {q c : Byte} {rest : List Byte} (hp : p = .dup ∨ p = .invalid)
    (hbody : a.body = q :: c :: rest) (hrest : a.restDrained tl s rest)
    (hclass : complemented (headerRead a.blk1k q c s) = rejected p (headerRead a.blk1k q c s)) :
    ∃ u, SessionKept s u ∧ AttemptLeaves a s (pendingAnswered p u) := by
  unfold Attempt.restDrained at hrest
  cases hd : s.params.drainOnReject with
  | true =>
    have hlegal := drainBegun_legal hr a.blk1k q c hp
    rw [if_pos hd] at hrest
    cases he : a.expires with
    | true =>
      rw [if_pos he] at hrest
      refine ⟨timedOut (counted rest.length (drainBegun a.blk1k q c p s)), ⟨rfl, rfl, rfl, rfl, rfl, rfl, hlegal⟩,
        attemptLeaves_of_expiry he ?_
          (timesOut_drained (s := counted rest.length (drainBegun a.blk1k q c p s)) hlegal rfl rfl hp)⟩
      rw [hbody]
      exact (takesAll_rejected hr hst hd hclass).append
        (takesAll_drain hlegal htl rfl ((Nat.zero_add _).trans_lt hrest))
    | false =>
      rw [if_neg (by simp [he])] at hrest
      refine ⟨counted rest.length (drainBegun a.blk1k q c p s), ⟨rfl, rfl, rfl, rfl, rfl, rfl, hlegal⟩,
        attemptLeaves_of_whole he ?_⟩
      rw [hbody]
      exact takesAll_drained hr hst htl hp hd hclass hrest
  | false =>
    rw [if_neg (by simp [hd])] at hrest
    obtain ⟨rfl, he⟩ := hrest
    have hlegal : (headerRead a.blk1k q c s).reservedField = none := sequenceRead_legal hr a.blk1k q
    refine ⟨headerRead a.blk1k q c s, ⟨rfl, rfl, rfl, rfl, rfl, rfl, hlegal⟩, attemptLeaves_of_whole he ?_⟩
    rw [hbody, ← rejected_at_once (s := headerRead a.blk1k q c s) hd, ← hclass]
    exact takesAll_classify hr hst a.blk1k q c

theorem cut_off_candidate {rest : List Byte} (hbody : a.body = s.seq :: complement s.seq :: rest)
    (he : a.expires = true) (hlt : rest.length < blockSize a.blk1k + tl) :
    ∃ u, SessionKept s u ∧ AttemptLeaves a s (invalidAnswered u) := by
  have hlegal := candidateBegun_legal hr a.blk1k
  refine ⟨timedOut (filled rest (candidateBegun a.blk1k s)), ⟨rfl, rfl, rfl, rfl, rfl, rfl, hlegal⟩,
    attemptLeaves_of_expiry he ?_
      (timesOut_invalid (s := filled rest (candidateBegun a.blk1k s)) hlegal rfl (.inr (.inr (.inl rfl))))⟩
  rw [hbody]
  exact (takesAll_candidate hr hst a.blk1k).append (takesAll_data hlegal htl rfl ((Nat.zero_add _).trans_lt hlt))

theorem wrong_trailer {p tr : List Byte} (hbody : a.body = s.seq :: complement s.seq :: (p ++ tr))
    (he : a.expires = false) (hp : p.length = blockSize a.blk1k) (htr : tr.length = tl)
    (hck : ckVerify s.params.checksum s.ckm p tr = false) :
    ∃ u, SessionKept s u ∧ AttemptLeaves a s (invalidAnswered u) := by
  subst htr
  have hlegal := candidateBegun_legal hr a.blk1k
  refine ⟨filled (p ++ tr) (candidateBegun a.blk1k s), ⟨rfl, rfl, rfl, rfl, rfl, rfl, hlegal⟩,
    attemptLeaves_of_whole he ?_⟩
  have hframe := takesAll_candidateFrame hr hst htl hp
  rw [verified_filled (s := candidateBegun a.blk1k s) rfl hp, if_neg (by exact hck ▸ Bool.false_ne_true)] at hframe
  rw [hbody]
  exact hframe

/-- A failed frame is answered as one error, whatever way it failed (R206, R208 to R211). -/
theorem failed_leaves_invalidAnswered (h : a.failed tl s) :
    ∃ u, SessionKept s u ∧ AttemptLeaves a s (invalidAnswered u) := by
  rcases h with ⟨hbody, he⟩ | ⟨c, rest, hbody, hc, hrest⟩ | ⟨rest, hbody, he, hlt⟩ |
    ⟨p, tr, hbody, he, hp, htr, hck⟩
  · exact cut_off_before_complement hr hst hbody he
  · exact rejected_frame_answered hr hst htl (.inr rfl) hbody hrest (complemented_invalid rfl hc)
  · exact cut_off_candidate hr hst htl hbody he hlt
  · exact wrong_trailer hr hst htl hbody he hp htr hck

/-- A duplicate is answered by ACK, whole or cut off (R206, R209, R211). -/
theorem duplicate_leaves_duplicateAnswered (h : a.duplicate tl s) :
    ∃ u, SessionKept s u ∧ AttemptLeaves a s (duplicateAnswered u) := by
  obtain ⟨c, rest, hbody, hrest⟩ := h
  exact rejected_frame_answered hr hst htl (.inl rfl) hbody hrest (complemented_dup rfl)

end

/-! One frame after another. -/

/-- A frame the receiver does not accept, marked by whether it is a failed one or a duplicate. -/
def NotAccepted (tl : Nat) (s : State) (x : Bool × Attempt) : Prop :=
  if x.1 then x.2.failed tl s else x.2.duplicate tl s

/-- The receiver waits in t after an answer to what came in s: the session goes on as it was, but for the answer. -/
structure WaitsAgain (s t : State) : Prop where
  params : t.params = s.params
  ckm : t.ckm = s.ckm
  seq : t.seq = s.seq
  dst : t.dst = s.dst
  legal : t.reservedField = none
  waits : t.st = .rxNextWait

/-- What counts as failed or duplicate only depends on the parameters, the checksum mode and SEQ. -/
theorem NotAccepted.of_waitsAgain {tl : Nat} {s t : State} {x : Bool × Attempt} (hw : WaitsAgain s t)
    (h : NotAccepted tl s x) : NotAccepted tl t x := by
  simpa only [NotAccepted, Attempt.failed, Attempt.duplicate, Attempt.restDrained, hw.params, hw.ckm, hw.seq] using h

/-- A frame that does not end the session gets its answer, and only a failed one counts (R216, R217). -/
theorem run_notAccepted {tl : Nat} {s : State} {x : Bool × Attempt} (hr : s.reservedField = none)
    (hst : s.st = .rxHsWait ∨ s.st = .rxNextWait) (hrx : s.rx = []) (htl : trailerLength s.ckm = some tl)
    (hx : NotAccepted tl s x) (hn : x.1 = true → s.err + 1#8 ≠ s.params.nMaxErr)
    (hs : s.sched.ahead x.2.turns.length = x.2.turns) :
    ∃ t, Host.Core.run core x.2.turns.length s = .next t ∧ WaitsAgain s t ∧ t.rx = [] ∧
      t.sched = s.sched.drop x.2.turns.length ∧ t.err = (if x.1 then s.err + 1#8 else s.err) ∧
      t.tx = s.tx ++ [if x.1 then NAK else ACK] := by
  obtain ⟨isFailed, a⟩ := x
  cases isFailed with
  | true =>
    obtain ⟨u, hu, hleaves⟩ := failed_leaves_invalidAnswered hr hst htl hx
    rw [invalidAnswered_again (by rw [hu.err, hu.params]; exact hn rfl)] at hleaves
    refine ⟨_, run_attempt hleaves hrx hs, ⟨hu.params, hu.ckm, hu.seq, hu.dst, ?_, rfl⟩, rfl, rfl,
      congrArg (· + 1#8) hu.err, congrArg (· ++ [NAK]) hu.tx⟩
    exact reservedField_of_kept hu.legal rfl rfl rfl rfl
  | false =>
    obtain ⟨u, hu, hleaves⟩ := duplicate_leaves_duplicateAnswered hr hst htl hx
    refine ⟨_, run_attempt hleaves hrx hs, ⟨hu.params, hu.ckm, hu.seq, hu.dst, ?_, rfl⟩, rfl, rfl, hu.err,
      congrArg (· ++ [ACK]) hu.tx⟩
    exact reservedField_of_kept hu.legal rfl rfl rfl rfl

/-- From any error count on, the failed frames still to come use up the bound (R217, R226). -/
theorem run_not_accepted_frames {tl : Nat} {final : Attempt} (frames : List (Bool × Attempt)) :
    ∀ s : State, s.reservedField = none → s.st = .rxHsWait ∨ s.st = .rxNextWait → s.rx = [] →
      trailerLength s.ckm = some tl → (∀ x ∈ frames, NotAccepted tl s x) → NotAccepted tl s (true, final) →
      s.err.toNat + (frames.filter (·.1)).length + 1 = s.params.nMaxErr.toNat →
      ∀ ts, ts = (frames.map (·.2.turns)).flatten ++ final.turns → s.sched.ahead ts.length = ts →
      ∃ t : State, Host.Core.run core ts.length s = .next t ∧ t.st = .done ∧ t.result = 0x57#8 ∧
        t.err = s.params.nMaxErr ∧ t.dst = s.dst ∧ t.seq = s.seq ∧
        t.tx = s.tx ++ frames.map (fun x => if x.1 then NAK else ACK) ++ [CAN, CAN] := by
  induction frames with
  | nil =>
    intro s hr hst hrx htl _ hfinal hcount ts hts hs
    obtain rfl : ts = final.turns := hts
    have hn : s.err + 1#8 = s.params.nMaxErr := by
      simp only [List.filter_nil, List.length_nil] at hcount
      bv_omega
    obtain ⟨u, hu, hleaves⟩ := failed_leaves_invalidAnswered hr hst htl hfinal
    rw [invalidAnswered_last (by rw [hu.err, hu.params]; exact hn)] at hleaves
    refine ⟨_, run_attempt hleaves hrx hs, rfl, rfl, (congrArg (· + 1#8) hu.err).trans hn, hu.dst, hu.seq, ?_⟩
    simp [withInput, hu.tx]
  | cons x frames ih =>
    intro s hr hst hrx htl hframes hfinal hcount ts hts hs
    rw [List.map_cons, List.flatten_cons, List.append_assoc] at hts
    subst hts
    rw [List.length_append] at hs ⊢
    obtain ⟨hround, hlater⟩ := ahead_append hs rfl
    have hn : x.1 = true → s.err + 1#8 ≠ s.params.nMaxErr := by
      intro hx
      simp only [List.filter_cons, hx, if_true, List.length_cons] at hcount
      bv_omega
    obtain ⟨t, hrun, hw, hrx', hsched, herr, htx⟩ :=
      run_notAccepted hr hst hrx htl (hframes x (by simp)) hn hround
    have hcount' : t.err.toNat + (frames.filter (·.1)).length + 1 = t.params.nMaxErr.toNat := by
      rw [herr, hw.params]
      cases hx : x.1 with
      | true =>
        simp only [List.filter_cons, hx, if_true, List.length_cons] at hcount
        simp only [if_true]
        bv_omega
      | false =>
        simp only [List.filter_cons, hx, Bool.false_eq_true, if_false] at hcount
        exact hcount
    obtain ⟨v, hv, hdone, hresult, herrs, hdst, hseq, htxs⟩ :=
      ih t hw.legal (.inr hw.waits) hrx' (hw.ckm ▸ htl) (fun y hy => (hframes y (by simp [hy])).of_waitsAgain hw)
        (hfinal.of_waitsAgain hw) hcount' _ rfl (hsched ▸ hlater)
    refine ⟨v, (run_trans hrun).trans hv, hdone, hresult, hw.params ▸ herrs, hdst.trans hw.dst, hseq.trans hw.seq,
      htxs.trans ?_⟩
    simp [htx]

/-- Settles O57, from the first frame on. -/
theorem receiverRetryBound : Obligations.ReceiverRetryBound := by
  intro s tl frames final ts hr hst hrx htl hframes hfinal hcount hts hs
  exact run_not_accepted_frames frames s hr hst hrx htl hframes hfinal hcount ts hts hs

end Sys2Proof.Laws
end

section
/-!
PROOFS. Scope: the engine's poll and the channel (spec/43_byte_io.md R252, R258, R260, R261): which event a poll serves,
what serving an expiry leaves of the deadline, and every byte a step can emit.
-/

namespace Sys2Proof.Laws

open Sys2Proof Sys2Proof.Machine Sys2Proof.Config Sys2Proof.Safety

/-! What the block emits (R261). -/

/-- What the transitions into t can have appended to TX, where it held `sent` before. -/
inductive Emits (t : State) (sent : List Byte) : Prop
  | nothing (htx : t.tx = sent)
  | cancelSignal (htx : t.tx = sent ++ [CAN, CAN]) (hst : t.st = .done)
  | eot (htx : t.tx = sent ++ [EOT]) (hrole : t.role = .sender)
  | frame (p tr : List Byte) (htx : t.tx = sent ++ frameBytes t.blk1k t.seq p tr) (hrole : t.role = .sender)
      (hp : p.length = bsz t) (htr : ckAppend t.params.checksum t.ckm p = some tr)
  | response (b : Byte) (htx : t.tx = sent ++ [b]) (hrole : t.role = .receiver) (hb : b = ACK ∨ b = NAK ∨ b = CRQ)

/-- The bytes of an emission by kind; only a running session is ended by the cancel signal. -/
theorem Emits.bytes {s t : State} (h : Emits t s.tx) (hdone : t.st = .done → s.busy = true) :
    ∃ e : List Byte, t.tx = s.tx ++ e ∧
      (e = [] ∨
        (e = [CAN, CAN] ∧ s.busy = true ∧ t.st = .done) ∨
        (t.role = .sender ∧ e = [EOT]) ∨
        (t.role = .sender ∧ ∃ p tr, p.length = bsz t ∧ ckAppend t.params.checksum t.ckm p = some tr ∧
          e = frameBytes t.blk1k t.seq p tr) ∨
        (t.role = .receiver ∧ (e = [ACK] ∨ e = [NAK] ∨ e = [CRQ]))) := by
  cases h with
  | nothing htx => exact ⟨[], by rw [htx, List.append_nil], .inl rfl⟩
  | cancelSignal htx hst => exact ⟨_, htx, .inr (.inl ⟨rfl, hdone hst, hst⟩)⟩
  | eot htx hrole => exact ⟨_, htx, .inr (.inr (.inl ⟨hrole, rfl⟩))⟩
  | frame p tr htx hrole hp htr => exact ⟨_, htx, .inr (.inr (.inr (.inl ⟨hrole, p, tr, hp, htr, rfl⟩)))⟩
  | response b htx hrole hb => exact ⟨_, htx, .inr (.inr (.inr (.inr ⟨hrole, by simpa using hb⟩)))⟩

theorem requestByte_eq_or (m : ChecksumMode) : requestByte m = NAK ∨ requestByte m = CRQ := by
  unfold requestByte
  split
  · exact .inr rfl
  · exact .inl rfl

/-! The sender: whole frames with the current SEQ (R172), and EOT (R171). -/

theorem ChunkMove.emits {s t : State} (hm : ChunkMove s t) (hrole : s.role = .sender) : Emits t s.tx := by
  cases hm with
  | eot => exact .eot rfl hrole
  | frame tr hlt htr => exact .frame (nextPayload s) tr rfl hrole (padded_take_length _ _) htr

theorem ErrorMove.emits {s t : State} (hm : ErrorMove s t) (hrole : s.role = .sender) : Emits t s.tx := by
  cases hm with
  | exhausted => exact .cancelSignal rfl rfl
  | again tr hne htr => exact .frame (s.fb.readN 0 (bsz s)) tr rfl hrole (readN_length _ _ _) htr

/-! The receiver: one response to a frame, or the cancel signal (R207, R215 to R217). -/

section
variable {s : State} (hrole : s.role = .receiver)
include hrole

theorem emits_accepted : Emits (accepted s) s.tx := .response ACK rfl hrole (.inl rfl)

theorem emits_duplicateAnswered : Emits (duplicateAnswered s) s.tx := .response ACK rfl hrole (.inl rfl)

theorem emits_invalidAnswered : Emits (invalidAnswered s) s.tx := by
  by_cases hn : s.err + 1#8 = s.params.nMaxErr
  · rw [invalidAnswered_last hn]
    exact .cancelSignal rfl rfl
  · rw [invalidAnswered_again hn]
    exact .response NAK rfl hrole (.inr (.inl rfl))

theorem emits_rejected (p : Pending) : Emits (rejected p s) s.tx := by
  unfold rejected
  split
  · exact .nothing rfl
  · split
    · exact emits_duplicateAnswered hrole
    · exact emits_invalidAnswered hrole

theorem emits_complemented : Emits (complemented s) s.tx := by
  unfold complemented
  cases classify s.seq s.rseq s.rcmp
  case dup => exact emits_rejected hrole .dup
  case sync => exact .cancelSignal rfl rfl
  case invalid => exact emits_rejected hrole .invalid
  case candidate => exact .nothing rfl

theorem emits_verified (tl : Nat) : Emits (verified tl s) s.tx := by
  unfold verified
  split
  · exact emits_accepted hrole
  · exact emits_invalidAnswered hrole

end

/-! Every transition. -/

theorem ByteMove.emits {s t : State} {b : Byte} {rest : List Byte} (hm : ByteMove s b rest t) (h : Inv s) :
    Emits t s.tx := by
  have role {st : FsmState} {r : Role} (hst : s.st = st) (hr : waitRole st = some r) : s.role = r :=
    h.role r (by rw [hst, hr])
  cases hm with
  | request m t hst hb hc => exact hc.emits (role hst rfl)
  | acked t hst hb hc => exact hc.emits (role hst rfl)
  | naked t hst hb hc => exact hc.emits (role hst rfl)
  | complement hst => exact emits_complemented (role hst rfl)
  | lastData tl hst => exact emits_verified (s := stored b (popped rest s)) (role hst rfl) tl
  | lastDrainDup tl hst => exact emits_duplicateAnswered (role hst rfl)
  | lastDrainInvalid tl hst => exact emits_invalidAnswered (role hst rfl)
  | eotTaken hst => exact .response ACK rfl (role hst rfl) (.inl rfl)
  | discarded | blockCancelled | eotAcked | eotCancelled | frameStart | sequence | data | drain => exact .nothing rfl

theorem ExpiryMove.emits {s t : State} (hm : ExpiryMove s t) (h : Inv s) : Emits t s.tx := by
  have role {st : FsmState} {r : Role} (hst : s.st = st) (hr : waitRole st = some r) : s.role = r :=
    h.role r (by rw [hst, hr])
  cases hm with
  | txBlk t hst he => exact he.emits (role hst rfl)
  | txEot hst => exact .eot rfl (role hst rfl)
  | rxHs hst => exact .response _ rfl (role hst rfl) (.inr (requestByte_eq_or _))
  | frame hst =>
    have hrole : s.role = .receiver := by rcases hst with hst | hst | hst <;> exact role hst rfl
    exact emits_invalidAnswered hrole
  | drainDup hst => exact emits_duplicateAnswered (role hst rfl)
  | drainInvalid hst => exact emits_invalidAnswered (role hst rfl)
  | rxNext hst =>
    exact .response (if s.last then ACK else NAK) rfl (role hst rfl) (by cases s.last <;> simp)
  | rxHsLast | rxNextLast => exact .cancelSignal rfl rfl
  | txHs | txEotLast => exact .nothing rfl

theorem EngineMove.emits {s t : State} (hm : EngineMove s t) (h : Inv s) : Emits t s.tx := by
  cases hm with
  | byte b rest t hrx hm => exact hm.emits h
  | expiry t hrx he hm => exact hm.emits h
  | cancel => exact .cancelSignal rfl rfl
  | quiet | nothing => exact .nothing rfl

/-- An accepted SEND emits nothing, an accepted RECEIVE its request byte (R140, R149). -/
theorem Started.emits {s t : State} (hm : Started s t) : Emits t s.tx := by
  cases hm with
  | send => exact .nothing rfl
  | receive opt => exact .response _ rfl rfl (.inr (requestByte_eq_or _))

/-- Settles O41, by the kind of step: only the engine and an accepted RECEIVE emit. -/
theorem onlyTheseBytesAreEmitted : Obligations.OnlyTheseBytesAreEmitted := by
  intro s t h hstep
  have hs : Inv { s with sched := s.sched.rest } := { h with }
  cases step_kind hstep with
  | engine t _ hb hm => exact (hm.emits hs).bytes fun _ => hb
  | start t _ hb ht => exact ht.emits.bytes fun hdone => absurd hdone (busy_iff.mp ht.busy).2
  | reset | latch | quiet => exact ⟨[], (List.append_nil _).symm, .inl rfl⟩

/-! An expiry (R260, R322). -/

theorem invalidAnswered_ends_or_restarts (s : State) :
    (invalidAnswered s).st = .done ∨ (invalidAnswered s).busy = true ∧ (invalidAnswered s).expired = false := by
  by_cases hn : s.err + 1#8 = s.params.nMaxErr
  · rw [invalidAnswered_last hn]
    exact .inl rfl
  · rw [invalidAnswered_again hn]
    exact .inr ⟨rfl, rfl⟩

/-- Serving an expiry ends the session or starts a deadline anew, which withdraws the expiry (R260, R320). -/
theorem ExpiryMove.ends_or_restarts {s t : State} (hm : ExpiryMove s t) :
    t.st = .done ∨ t.busy = true ∧ t.expired = false := by
  have hb : s.busy = true := hm.busy
  cases hm with
  | txBlk t hst he =>
    cases he with
    | exhausted => exact .inl rfl
    | again => exact .inr ⟨rfl, rfl⟩
  | frame | drainInvalid => exact invalidAnswered_ends_or_restarts s
  | txEot | rxHs | rxNext => exact .inr ⟨hb, rfl⟩
  | drainDup => exact .inr ⟨rfl, rfl⟩
  | txHs | txEotLast | rxHsLast | rxNextLast => exact .inl rfl

/-- With RX empty and the deadline expired, the engine of a running session serves the expiry. -/
theorem EngineMove.expiry_of_expired {s t : State} (hm : EngineMove s t) (hb : s.busy = true) (hrx : s.rx = [])
    (he : s.expired = true) : ExpiryMove s t := by
  cases hm with
  | expiry t _ _ hm => exact hm
  | quiet hb' => simp [hb] at hb'
  | byte b rest t hrx' => simp [hrx] at hrx'
  | cancel _ _ he' | nothing _ _ he' => simp [he] at he'

/-- Settles O45: a deadline of the state it enters runs by the invariant, and it is a fresh one. -/
theorem expiryIsServedOnce : Obligations.ExpiryIsServedOnce := by
  intro s t h hb hrx he ht
  have hm : ExpiryMove s t := (engineTurn_move ht).2.expiry_of_expired hb hrx he
  have hinv : Inv t := hm.inv h
  exact ⟨hm.kept.1.trans hrx,
    hm.ends_or_restarts.imp_right fun ⟨hbusy, hexp⟩ => ⟨hbusy, hexp, hinv.deadlineRunning hbusy⟩⟩

/-! Which event a poll serves (R252), and where there is none. -/

/-- Settles O7, by the turn: the poll that finds a byte, and the command. -/
theorem stepRunsDecodedInstruction : Obligations.StepRunsDecodedInstruction := by
  refine ⟨fun s b rest hr hb hrx hs => step_byte hs hr hb hrx, fun s w hr hs => ?_⟩
  exact (step_host hs).trans (hostTurn_eq (s := { s with sched := s.sched.rest }) hr w)

/-- Settles O9: the poll finds neither byte nor expiry, so CXL decides. -/
theorem cancellationAtSuspensionPoint : Obligations.CancellationAtSuspensionPoint := by
  intro s hr hb hrx he hs
  exact ⟨fun hc => step_cancel hs hr hb hrx he hc, fun hc => step_nothing hs hr hb hrx he hc⟩

/-- Outside a session no byte is popped, whatever the column's rules (R252; entry 3). -/
theorem eventColumn_not_busy {b : Byte} {f1 f2 f3 f4 f5 : State → Result} {s : State}
    (h : s.st = .idle ∨ s.st = .done) : eventColumn b f1 f2 f3 f4 f5 s = .next s := by
  rcases h with hst | hst <;> simp only [eventColumn, hst]

/-- Settles O10: the engine's turn outside a session, and the columns of the wire bytes there. -/
theorem idleAndDoneAreNotPolled : Obligations.IdleAndDoneAreNotPolled := by
  intro s h
  refine ⟨fun hr hs => step_quiet hs hr (not_busy_iff.mpr h), fun i hi => ?_⟩
  cases i with
  | soh | stx | eot | ack | nak | can | cpmeof | crq | other => exact eventColumn_not_busy h
  | nop | send | receive | cancel => cases hi

end Sys2Proof.Laws
end

section
/-!
PROOFS. Scope: the host's commands (spec/44_host_operations.md R280 to R283): what each does while a session runs and
outside one, and what the start of a session forgets (R287).
-/

namespace Sys2Proof.Laws

open Sys2Proof Sys2Proof.Machine Sys2Proof.Config Sys2Proof.Safety

section

variable {s : State} (opt : Bool)

/-- A SEND while BUSY is ignored (R283). -/
theorem exec_send_of_busy (hb : s.busy = true) : exec (.send opt) s = .next s := if_pos hb

/-- A RECEIVE while BUSY is ignored (R283). -/
theorem exec_receive_of_busy (hb : s.busy = true) : exec (.receive opt) s = .next s := if_pos hb

/-- A SEND outside a session starts one when its source fits SPTR (R280; U12). -/
theorem exec_send_of_not_busy (hb : s.busy = false) (hl : s.srcPort.length < 2 ^ s.params.wSrc) :
    exec (.send opt) s = .next (startSend opt s) :=
  (if_neg (ne_true_of_eq_false hb)).trans (if_pos hl)

/-- A RECEIVE outside a session starts one (R281). -/
theorem exec_receive_of_not_busy (hb : s.busy = false) : exec (.receive opt) s = .next (startReceive opt s) :=
  if_neg (ne_true_of_eq_false hb)

/-- A CANCEL while BUSY sets CXL (R282). -/
theorem exec_cancel_of_busy (hb : s.busy = true) : exec (.cancel opt) s = .next { s with cxl := true } := if_pos hb

/-- A CANCEL outside a session is ignored (R283). -/
theorem exec_cancel_of_not_busy (hb : s.busy = false) : exec (.cancel opt) s = .next s :=
  if_neg (ne_true_of_eq_false hb)

/-- A SEND outside a session that is not refused has a source that fits, and starts the session. -/
theorem exec_send_next {t : State} (hb : s.busy = false) (h : exec (.send opt) s = .next t) :
    s.srcPort.length < 2 ^ s.params.wSrc ∧ t = startSend opt s := by
  by_cases hl : s.srcPort.length < 2 ^ s.params.wSrc
  · rw [exec_send_of_not_busy opt hb hl] at h
    cases h
    exact ⟨hl, rfl⟩
  · rw [sendRefusedWhenSourceTooLong s opt hb (Nat.le_of_not_lt hl)] at h
    cases h

end

/-- Settles O11, by BUSY. -/
theorem ignoredCommandsAndCancel : Obligations.IgnoredCommandsAndCancel := by
  intro s opt
  exact ⟨rfl, fun hb => ⟨exec_send_of_busy opt hb, exec_receive_of_busy opt hb⟩, exec_cancel_of_not_busy opt,
    exec_cancel_of_busy opt⟩

/-- Settles O12: the state written out is what `startSend` leaves. -/
theorem sendStartsSession : Obligations.SendStartsSession := by
  intro s opt
  exact ⟨exec_send_of_busy opt, exec_send_of_not_busy opt⟩

/-- Settles O14: the state written out is what `startReceive` leaves, its request byte by OPT (R115). -/
theorem receiveStartsSession : Obligations.ReceiveStartsSession := by
  intro s opt
  refine ⟨exec_receive_of_busy opt, fun hb => (exec_receive_of_not_busy opt hb).trans ?_⟩
  cases opt <;> rfl

/-! What the start of a session forgets (R287). -/

/-- The two states agree on what the start of a session of either role keeps. -/
structure SameOutsideSession (s s' : State) : Prop where
  params : s'.params = s.params
  rx : s'.rx = s.rx
  tx : s'.tx = s.tx
  srcPort : s'.srcPort = s.srcPort
  sched : s'.sched = s.sched

/-- Beyond these fields a SEND keeps only DST and the leftovers. -/
theorem startSend_eq_withLeftovers {s s' : State} (opt : Bool) (h : SameOutsideSession s s') (hdst : s'.dst = s.dst) :
    startSend opt s' = withLeftovers s'.fb s'.rseq s'.rcmp (startSend opt s) := by
  obtain ⟨hparams, hrx, htx, hport, hsched⟩ := h
  simp only [startSend, sessionRegisters, timerStart, withLeftovers, hparams, hrx, htx, hport, hsched, hdst]

/-- Beyond these fields a RECEIVE keeps only SRC and the leftovers: it empties DST (entry 9). -/
theorem startReceive_eq_withLeftovers {s s' : State} (opt : Bool) (h : SameOutsideSession s s')
    (hsrc : s'.src = s.src) :
    startReceive opt s' = withLeftovers s'.fb s'.rseq s'.rcmp (startReceive opt s) := by
  obtain ⟨hparams, hrx, htx, hport, hsched⟩ := h
  simp only [startReceive, rxHsEntry, sessionRegisters, timerStart, emit, req, withLeftovers, hparams, hrx, htx, hport,
    hsched, hsrc]

/-- Settles O50: both states start the session, and a handshake state reads no leftover. -/
theorem sessionStartForgetsRegisters : Obligations.SessionStartForgetsRegisters := by
  intro s s' t opt hb hb' hparams hrx htx hport hsched
  have h : SameOutsideSession s s' := ⟨hparams, hrx, htx, hport, hsched⟩
  constructor
  · intro hdst ht
    obtain ⟨hl, rfl⟩ := exec_send_next opt hb ht
    have hl' : s'.srcPort.length < 2 ^ s'.params.wSrc := by rwa [hport, hparams]
    refine ⟨startSend opt s', exec_send_of_not_busy opt hb' hl', ?_⟩
    rw [startSend_eq_withLeftovers opt h hdst]
    exact same_of_forgets _ _ _ ⟨nofun, nofun, nofun⟩
  · intro hsrc ht
    obtain rfl : startReceive opt s = t := by simpa [exec_receive_of_not_busy opt hb] using ht
    refine ⟨startReceive opt s', exec_receive_of_not_busy opt hb', ?_⟩
    rw [startReceive_eq_withLeftovers opt h hsrc]
    exact same_of_forgets _ _ _ ⟨nofun, nofun, nofun⟩

end Sys2Proof.Laws
end

section
/-!
PROOFS. Scope: how a session ends (spec/60_exceptions.md R301 to R303, R305, R308): the codes of the outcomes, which of
them each wait state can raise, and what leaves DONE.
-/

namespace Sys2Proof.Laws

open Sys2Proof Sys2Proof.Machine Sys2Proof.Config Sys2Proof.Safety

/-- Settles O33, outcome by outcome. -/
theorem resultCodes : Obligations.ResultCodes := by
  refine ⟨fun c => ⟨?_, ?_, ?_, result_not_reserved c, ?_⟩, by decide⟩
  · cases c <;> rfl
  · cases c <;> rfl
  · cases c <;> rfl
  · cases c <;> decide

/-! What the engine makes of a session: it goes on, or it ends with an outcome of its wait state (R303). -/

/-- In t the session runs on, or it has ended with one of the outcomes cs. -/
def RunsOnOrEnds (cs : List Cause) (t : State) : Prop :=
  t.busy = true ∨ t.st = .done ∧ ∃ c ∈ cs, t.result = c.result

theorem runsOnOrEnds_endSession {cs : List Cause} {c : Cause} (hc : c ∈ cs) (s : State) :
    RunsOnOrEnds cs (endSession c s) := .inr ⟨rfl, c, hc, rfl⟩

theorem runsOnOrEnds_invalidAnswered {cs : List Cause} (hc : .rxTooManyErrors ∈ cs) (s : State) :
    RunsOnOrEnds cs (invalidAnswered s) := by
  by_cases hn : s.err + 1#8 = s.params.nMaxErr
  · rw [invalidAnswered_last hn]
    exact .inr ⟨rfl, _, hc, rfl⟩
  · rw [invalidAnswered_again hn]
    exact .inl rfl

theorem runsOnOrEnds_rejected {cs : List Cause} (hc : .rxTooManyErrors ∈ cs) (p : Pending) (s : State) :
    RunsOnOrEnds cs (rejected p s) := by
  unfold rejected
  split
  · exact .inl rfl
  · split
    · exact .inl rfl
    · exact runsOnOrEnds_invalidAnswered hc s

theorem runsOnOrEnds_complemented (s : State) : RunsOnOrEnds (outcomesOf .rxCmpl) (complemented s) := by
  unfold complemented
  cases classify s.seq s.rseq s.rcmp
  case dup => exact runsOnOrEnds_rejected (by decide) .dup s
  case sync => exact .inr ⟨rfl, .rxSyncLost, by decide, rfl⟩
  case invalid => exact runsOnOrEnds_rejected (by decide) .invalid s
  case candidate => exact .inl rfl

theorem runsOnOrEnds_verified (tl : Nat) (s : State) : RunsOnOrEnds (outcomesOf .rxData) (verified tl s) := by
  unfold verified
  split
  · exact .inl rfl
  · exact runsOnOrEnds_invalidAnswered (by decide) s

theorem ChunkMove.runsOn {s t : State} (hm : ChunkMove s t) : t.busy = true := by
  cases hm <;> rfl

theorem ErrorMove.runsOnOrEnds {s t : State} (hm : ErrorMove s t) : RunsOnOrEnds (outcomesOf .txBlkWait) t := by
  cases hm with
  | exhausted => exact .inr ⟨rfl, .txTooManyErrors, by decide, rfl⟩
  | again => exact .inl rfl

theorem ByteMove.runsOnOrEnds {s t : State} {b : Byte} {rest : List Byte} (hm : ByteMove s b rest t) :
    RunsOnOrEnds (outcomesOf s.st) t := by
  have hb : s.busy = true := hm.busy
  cases hm with
  | discarded | data | drain => exact .inl hb
  | request m t hst _ hc => exact .inl hc.runsOn
  | acked t hst _ hc => exact .inl hc.runsOn
  | naked t hst _ hc => exact hst ▸ hc.runsOnOrEnds
  | blockCancelled hst | eotAcked hst | eotCancelled hst | eotTaken hst =>
    rw [hst]
    exact runsOnOrEnds_endSession (by decide) _
  | frameStart | sequence | lastDrainDup => exact .inl rfl
  | complement hst => exact hst ▸ runsOnOrEnds_complemented _
  | lastData tl hst => exact hst ▸ runsOnOrEnds_verified tl _
  | lastDrainInvalid tl hst =>
    rw [hst]
    exact runsOnOrEnds_invalidAnswered (by decide) _

theorem ExpiryMove.runsOnOrEnds {s t : State} (hm : ExpiryMove s t) : RunsOnOrEnds (outcomesOf s.st) t := by
  have hb : s.busy = true := hm.busy
  cases hm with
  | txHs hst | txEotLast hst =>
    rw [hst]
    exact runsOnOrEnds_endSession (by decide) _
  | txBlk t hst he => exact hst ▸ he.runsOnOrEnds
  | txEot | rxHs | rxNext => exact .inl hb
  | rxHsLast hst => exact .inr ⟨rfl, .rxHsTimeout, by rw [hst]; decide, rfl⟩
  | rxNextLast hst => exact .inr ⟨rfl, .rxNoData, by rw [hst]; decide, rfl⟩
  | frame hst =>
    have hc : .rxTooManyErrors ∈ outcomesOf s.st := by rcases hst with hst | hst | hst <;> rw [hst] <;> decide
    exact runsOnOrEnds_invalidAnswered hc s
  | drainDup => exact .inl rfl
  | drainInvalid hst =>
    rw [hst]
    exact runsOnOrEnds_invalidAnswered (by decide) s

/-- A running session is in one of the wait states, which all have a deadline (R32). -/
theorem waitDeadline_of_busy {s : State} (h : Inv s) (hb : s.busy = true) :
    ∃ sel, waitDeadline s.st = some sel := by
  obtain ⟨hidle, hdone⟩ := busy_iff.mp hb
  cases hst : s.st with
  | idle => exact absurd hst hidle
  | done => exact absurd hst hdone
  | reserved n => exact absurd hst (st_ne_reserved h n)
  | txHsWait | txBlkWait | txEotWait | rxHsWait | rxSeq | rxCmpl | rxData | rxDrain | rxNextWait => exact ⟨_, rfl⟩

/-- Every wait state can be cancelled (R258). -/
theorem localCancel_mem_outcomesOf {st : FsmState} {sel : TimerSel} (h : waitDeadline st = some sel) :
    .localCancel ∈ outcomesOf st := by
  cases st with
  | idle | done | reserved => cases h
  | txHsWait | txBlkWait | txEotWait | rxHsWait | rxSeq | rxCmpl | rxData | rxDrain | rxNextWait => decide

theorem EngineMove.runsOnOrEnds {s t : State} (hm : EngineMove s t) (h : Inv s) (hb : s.busy = true) :
    RunsOnOrEnds (outcomesOf s.st) t := by
  cases hm with
  | byte b rest t _ hm => exact hm.runsOnOrEnds
  | expiry t _ _ hm => exact hm.runsOnOrEnds
  | cancel =>
    obtain ⟨sel, hsel⟩ := waitDeadline_of_busy h hb
    exact runsOnOrEnds_endSession (localCancel_mem_outcomesOf hsel) _
  | quiet | nothing => exact .inl hb

/-- Without hardware reset a session runs on or ends with an outcome of its wait state, whoever moves. -/
theorem step_runsOnOrEnds {s t : State} (h : Inv s) (hb : s.busy = true) (hs : s.sched.next ≠ .reset)
    (hstep : step s = .next t) : RunsOnOrEnds (outcomesOf s.st) t := by
  cases step_kind hstep with
  | reset hs' => exact absurd hs' hs
  | start t _ hb' => simp [hb] at hb'
  | engine t _ _ hm => exact hm.runsOnOrEnds { h with } hb
  | latch | quiet => exact .inl hb

/-- Settles O37: of what a step makes of a session, DONE leaves only the end, and hardware reset enters IDLE. -/
theorem sessionEndsByStateOutcomes : Obligations.SessionEndsByStateOutcomes := by
  intro s t h hstep hb hdone
  by_cases hs : s.sched.next = .reset
  · obtain rfl : hardwareReset { s with sched := s.sched.rest } = t := by simpa [step_reset hs] using hstep
    cases hdone
  · rcases step_runsOnOrEnds h hb hs hstep with hbusy | ⟨-, hc⟩
    · exact absurd hdone (busy_iff.mp hbusy).2
    · exact hc

/-- Settles O39, by the turn: in DONE the engine does nothing, and of the commands only a start writes ST. -/
theorem onlySessionStartOrResetLeavesDone : Obligations.OnlySessionStartOrResetLeavesDone := by
  intro s t hstep hdone hleft
  have hb : s.busy = false := not_busy_iff.mpr (.inr hdone)
  cases step_move hstep with
  | engine t hs hr hm => exact absurd (hm.eq_of_not_busy hb ▸ hdone) hleft
  | host w i t hs hr hi hm =>
    cases hm with
    | ignored => exact absurd hdone hleft
    | send opt => exact .inl ⟨w, opt, hs, .inl ⟨hi, rfl⟩⟩
    | receive opt => exact .inl ⟨w, opt, hs, .inr ⟨hi, rfl⟩⟩
    | cancel opt hb' => exact absurd (hb.symm.trans hb') nofun
  | timer hs =>
    obtain ⟨e, -, heq⟩ := elapse_cases { s with sched := s.sched.rest }
    exact absurd (heq ▸ hdone) hleft
  | peer | bindSrc => exact absurd hdone hleft
  | reset hs => exact .inr ⟨hs, rfl⟩

end Sys2Proof.Laws
end

section
/-!
PROOFS. Scope: every session ends when the peer falls silent and the timer is fair (spec/60_exceptions.md R309, R323):
a rank of the state that each turn the session waits for lowers and no other turn raises.
-/

namespace Sys2Proof.Laws

open Sys2Proof Sys2Proof.Machine Sys2Proof.Config Sys2Proof.Safety

/-! How many expiries a wait state can still serve while no byte comes. -/

/-- A bound on them: the counts left of R143, R177, R183 and R222; a frame cut off leads to RX_NEXT_WAIT. -/
def expiriesLeft (s : State) : Nat :=
  match s.st with
  | .txHsWait => 1
  | .txBlkWait => s.params.nMaxErr.toNat - s.err.toNat
  | .txEotWait => s.params.nTxEot.toNat - s.rtry.toNat + 1
  | .rxHsWait => s.params.nRxHs.toNat - s.rtry.toNat
  | .rxSeq => s.params.nRxNext.toNat + 1
  | .rxCmpl => s.params.nRxNext.toNat + 1
  | .rxData => s.params.nRxNext.toNat + 1
  | .rxDrain => s.params.nRxNext.toNat + 1
  | .rxNextWait => s.params.nRxNext.toNat - s.rtry.toNat
  | .idle => 0
  | .done => 0
  | .reserved _ => 0

theorem expiriesLeft_le (s : State) : expiriesLeft s ≤ 256 := by
  unfold expiriesLeft
  split <;> omega

theorem left_succ_lt {m n : BitVec 8} (h : m < n) : n.toNat - (m + 1#8).toNat < n.toNat - m.toNat := by bv_omega

theorem expiriesLeft_nextWait (s : State) : expiriesLeft (nextWait s) = s.params.nRxNext.toNat := rfl

theorem expiriesLeft_frame {s : State} (h : s.st = .rxSeq ∨ s.st = .rxCmpl ∨ s.st = .rxData ∨ s.st = .rxDrain) :
    expiriesLeft s = s.params.nRxNext.toNat + 1 := by
  rcases h with h | h | h | h <;> simp only [expiriesLeft, h]

theorem done_or_fewer_invalidAnswered {s : State}
    (h : s.st = .rxSeq ∨ s.st = .rxCmpl ∨ s.st = .rxData ∨ s.st = .rxDrain) :
    (invalidAnswered s).st = .done ∨ expiriesLeft (invalidAnswered s) < expiriesLeft s := by
  by_cases hn : s.err + 1#8 = s.params.nMaxErr
  · rw [invalidAnswered_last hn]
    exact .inl rfl
  · rw [invalidAnswered_again hn, expiriesLeft_frame h]
    exact .inr (Nat.lt_succ_self _)

/-- Serving an expiry ends the session or leaves fewer to serve. -/
theorem ExpiryMove.done_or_fewer {s t : State} (hm : ExpiryMove s t) (h : Inv s) :
    t.st = .done ∨ expiriesLeft t < expiriesLeft s := by
  cases hm with
  | txHs | txEotLast | rxHsLast | rxNextLast => exact .inl rfl
  | txBlk t hst he =>
    have hlt : s.err < s.params.nMaxErr := h.errBelow (by simp [hst])
    cases he with
    | exhausted => exact .inl rfl
    | again => exact .inr (by simpa [expiriesLeft, hst, frameSent] using left_succ_lt hlt)
  | txEot hst hn =>
    have hlt : s.rtry < s.params.nTxEot := BitVec.lt_of_le_ne (h.rtryTxEot hst).2 hn
    exact .inr (by simpa [expiriesLeft, hst] using left_succ_lt hlt)
  | rxHs hst => exact .inr (by simpa [expiriesLeft, hst] using left_succ_lt (h.rtryRxHs hst))
  | rxNext hst => exact .inr (by simpa [expiriesLeft, hst] using left_succ_lt (h.rtryRxNext hst))
  | frame hst => exact done_or_fewer_invalidAnswered (by tauto)
  | drainInvalid hst => exact done_or_fewer_invalidAnswered (by tauto)
  | drainDup hst =>
    rw [expiriesLeft_frame (s := s) (by tauto)]
    exact .inr (Nat.lt_succ_self _)

/-! The rank: unread bytes first, then expiries left, then whether one is pending. -/

/-- The factor 257 lets a byte outweigh whatever expiries its rule makes room for. -/
def rank (s : State) : Nat := 2 * (257 * s.rx.length + expiriesLeft s) + (if s.expired then 0 else 1)

/-- The turn a running session waits for: a poll while there is a byte or an expiry to serve, else an expiry. -/
def awaited (s : State) : Turn := if s.rx = [] ∧ s.expired = false then .timer else .engine

theorem awaited_of_expired {s : State} (h : s.expired = true) : awaited s = .engine := by simp [awaited, h]

theorem awaited_of_nothing {s : State} (hrx : s.rx = []) (he : s.expired = false) : awaited s = .timer := by
  simp [awaited, hrx, he]

theorem awaited_eq_or (s : State) : awaited s = .timer ∨ awaited s = .engine := by
  unfold awaited
  split
  · exact .inl rfl
  · exact .inr rfl

theorem rank_lt_of_byte {s t : State} {b : Byte} (hrx : s.rx = b :: t.rx) : rank t < rank s := by
  have hle := expiriesLeft_le t
  have hlen : s.rx.length = t.rx.length + 1 := by rw [hrx, List.length_cons]
  unfold rank
  split <;> omega

theorem rank_lt_of_expiry {s t : State} (hrx : t.rx = s.rx) (h : expiriesLeft t < expiriesLeft s) :
    rank t < rank s := by
  unfold rank
  rw [hrx]
  split <;> omega

theorem rank_lt_of_elapse {s : State} (he : s.expired = false) : rank { s with expired := true } < rank s := by
  simp only [rank, he, if_true, Bool.false_eq_true, if_false]
  exact Nat.lt_succ_self _

/-- What a step from s to t does for the end of the session: it ends it, it lowers the rank, or it was not the turn
awaited and the session waits on for the same one. -/
def Approaches (s t : State) : Prop :=
  t.st = .done ∨ rank t < rank s ∨ s.sched.next ≠ awaited s ∧ rank t = rank s ∧ awaited t = awaited s

theorem EngineMove.approaches {s t : State} (hm : EngineMove { s with sched := s.sched.rest } t) (h : Inv s)
    (hb : s.busy = true) (hs : s.sched.next = .engine) : Approaches s t := by
  cases hm with
  | quiet hb' => exact absurd (hb.symm.trans hb') nofun
  | byte b rest t hrx hm => exact .inr (.inl (rank_lt_of_byte (hrx.trans (by rw [hm.kept.1]))))
  | expiry t hrx he hm =>
    exact (hm.done_or_fewer { h with }).imp_right fun hlt => .inl (rank_lt_of_expiry hm.kept.1 hlt)
  | cancel => exact .inl rfl
  | nothing _ hrx he =>
    have hne : s.sched.next ≠ awaited s := by rw [hs, awaited_of_nothing (s := s) hrx he]; nofun
    exact .inr (.inr ⟨hne, rfl, rfl⟩)

theorem elapse_approaches {s : State} (h : Inv s) (hb : s.busy = true) (hs : s.sched.next = .timer) :
    Approaches s (elapse { s with sched := s.sched.rest }) := by
  obtain ⟨sel, hsel⟩ := waitDeadline_of_busy h hb
  have hd : s.deadline = some sel := (h.deadlineRunning hb).trans hsel
  rw [elapse_of_deadline (s := { s with sched := s.sched.rest }) hd]
  cases he : s.expired with
  | false => exact .inr (.inl (rank_lt_of_elapse he))
  | true =>
    have hsame : { s with sched := s.sched.rest, expired := true } = { s with sched := s.sched.rest } := by rw [← he]
    have hne : s.sched.next ≠ awaited s := by rw [hs, awaited_of_expired he]; nofun
    rw [hsame]
    exact .inr (.inr ⟨hne, rfl, rfl⟩)

/-- Every step of a running session approaches its end, unless a byte arrives or hardware reset comes. -/
theorem step_approaches {s t : State} (h : Inv s) (hb : s.busy = true) (hreset : s.sched.next ≠ .reset)
    (hpeer : ∀ b, s.sched.next ≠ .peer b) (hstep : step s = .next t) : Approaches s t := by
  cases step_move hstep with
  | engine t hs hr hm => exact hm.approaches h hb hs
  | host w i t hs hr hi hm =>
    have hne : s.sched.next ≠ awaited s := by rcases awaited_eq_or s with ha | ha <;> simp [hs, ha]
    cases hm with
    | ignored | cancel => exact .inr (.inr ⟨hne, rfl, rfl⟩)
    | send _ hb' | receive _ hb' => exact absurd (hb.symm.trans hb') nofun
  | peer b hs => exact absurd hs (hpeer b)
  | timer hs => exact elapse_approaches h hb hs
  | bindSrc bs hs =>
    have hne : s.sched.next ≠ awaited s := by rcases awaited_eq_or s with ha | ha <;> simp [hs, ha]
    exact .inr (.inr ⟨hne, rfl, rfl⟩)
  | reset hs => exact absurd hs hreset

/-! The run. -/

/-- A running session in a good state, with no hardware reset, and endlessly many expiries and polls, to come. -/
structure FairSession (s : State) : Prop where
  inv : Inv s
  busy : s.busy = true
  noReset : ∀ n, s.sched.turn n ≠ .reset
  elapses : ∀ m, ∃ n, m ≤ n ∧ s.sched.turn n = .timer
  polled : ∀ m, ∃ n, m ≤ n ∧ s.sched.turn n = .engine

/-- Some number of steps reaches DONE. -/
def ReachesDone (s : State) : Prop := ∃ (n : Nat) (t : State), Host.Core.run core n s = .next t ∧ t.st = .done

theorem reachesDone_of_done {s : State} (h : s.st = .done) : ReachesDone s := ⟨0, s, rfl, h⟩

theorem ReachesDone.of_step {s t : State} (hstep : step s = .next t) (h : ReachesDone t) : ReachesDone s := by
  obtain ⟨n, u, hrun, hdone⟩ := h
  exact ⟨n + 1, u, (run_step hstep).trans hrun, hdone⟩

/-- What comes endlessly often comes endlessly often after the next turn. -/
theorem again_after_rest {c : Schedule} {x : Turn} (h : ∀ m, ∃ n, m ≤ n ∧ c.turn n = x) (m : Nat) :
    ∃ n, m ≤ n ∧ c.rest.turn n = x := by
  obtain ⟨n, hle, hn⟩ := h (m + 1)
  obtain ⟨k, rfl⟩ : ∃ k, n = k + 1 := ⟨n - 1, by omega⟩
  exact ⟨k, by omega, hn⟩

/-- A fair session takes its step, and ends by it or is a fair session after it. -/
theorem FairSession.step {s : State} (h : FairSession s) :
    ∃ t, Machine.step s = .next t ∧ t.sched = s.sched.rest ∧ (t.st = .done ∨ FairSession t) := by
  have hstep : ∃ t, Machine.step s = .next t := by
    rcases noFaultFromGoodState s h.inv with hnext | ⟨⟨-, -, -, -, hidle, -⟩, -⟩
    · exact hnext
    · exact absurd (h.busy.symm.trans hidle) nofun
  obtain ⟨t, hstep⟩ := hstep
  have hsched : t.sched = s.sched.rest := step_sched hstep
  refine ⟨t, hstep, hsched, ?_⟩
  rcases step_runsOnOrEnds h.inv h.busy (h.noReset 0) hstep with hbusy | ⟨hdone, -⟩
  · right
    exact
      { inv := everyStepKeepsInvariant s t h.inv hstep
        busy := hbusy
        noReset := hsched ▸ fun n => h.noReset (n + 1)
        elapses := hsched ▸ again_after_rest h.elapses
        polled := hsched ▸ again_after_rest h.polled }
  · exact .inl hdone

theorem FairSession.awaited_comes {s : State} (h : FairSession s) : ∃ n, s.sched.turn n = awaited s := by
  rcases awaited_eq_or s with ha | ha <;> rw [ha]
  · obtain ⟨n, -, hn⟩ := h.elapses 0
    exact ⟨n, hn⟩
  · obtain ⟨n, -, hn⟩ := h.polled 0
    exact ⟨n, hn⟩

/-- Once the peer is silent the session ends: by the rank, and below it by how far off the awaited turn is. -/
theorem FairSession.reachesDone_of_silent {s : State} (h : FairSession s) (hpeer : ∀ n b, s.sched.turn n ≠ .peer b)
    {n : Nat} (hn : s.sched.turn n = awaited s) : ReachesDone s := by
  obtain ⟨t, hstep, hsched, hdone | ht⟩ := h.step
  · exact (reachesDone_of_done hdone).of_step hstep
  have hpeer' : ∀ n b, t.sched.turn n ≠ .peer b := hsched ▸ fun n => hpeer (n + 1)
  rcases step_approaches h.inv h.busy (h.noReset 0) (hpeer 0) hstep with hdone | hlt | ⟨hne, hrank, hsame⟩
  · exact (reachesDone_of_done hdone).of_step hstep
  · obtain ⟨k, hk⟩ := ht.awaited_comes
    exact (ht.reachesDone_of_silent hpeer' hk).of_step hstep
  · cases n with
    | zero => exact absurd hn hne
    | succ n =>
      have hn' : t.sched.turn n = awaited t := by rw [hsched, hsame]; exact hn
      exact (ht.reachesDone_of_silent hpeer' hn').of_step hstep
termination_by (rank s, n)
decreasing_by
  · exact Prod.Lex.left _ _ hlt
  · exact Prod.Lex.right' _ hrank.le (by omega)

/-- A peer that sends no byte from the m-th turn on: each turn before it brings the silence one step nearer. -/
theorem FairSession.reachesDone {m : Nat} :
    ∀ {s : State}, FairSession s → (∀ n b, m ≤ n → s.sched.turn n ≠ .peer b) → ReachesDone s := by
  induction m with
  | zero =>
    intro s h hpeer
    obtain ⟨n, hn⟩ := h.awaited_comes
    exact h.reachesDone_of_silent (fun n b => hpeer n b (Nat.zero_le n)) hn
  | succ m ih =>
    intro s h hpeer
    obtain ⟨t, hstep, hsched, hdone | ht⟩ := h.step
    · exact (reachesDone_of_done hdone).of_step hstep
    · exact (ih ht (hsched ▸ fun n b hle => hpeer (n + 1) b (Nat.succ_le_succ hle))).of_step hstep

/-- Settles O59: the premises are those of a fair session whose peer falls silent. -/
theorem everySessionEnds : Obligations.EverySessionEnds := by
  intro s hinv hbusy hreset ⟨m, hpeer⟩ helapses hpolled
  exact FairSession.reachesDone ⟨hinv, hbusy, hreset, helapses, hpolled⟩ hpeer

end Sys2Proof.Laws
end

section
/-!
PROOFS. Scope: a peer that never lets RX run empty at a poll starves a session (spec/60_exceptions.md R309, last
sentence; spec/43_byte_io.md R251, R252): each poll outside a frame finds a byte of the class OTHER and discards it.
-/

namespace Sys2Proof.Laws

open Sys2Proof Sys2Proof.Machine Sys2Proof.Config Sys2Proof.Safety

/-! The class OTHER (R101). -/

/-- A byte of the class OTHER stands for no instruction whose byte has a class of its own. -/
theorem decodeByte_ne_of_classOther {b c : Byte} {i : Instr} (hb : classOther b) (hi : encode i = .byte c)
    (hc : c ∈ [SOH, STX, EOT, ACK, NAK, CAN, CRQ]) : decodeByte b ≠ i := by
  rintro rfl
  obtain rfl : b = c := Encoded.byte.inj ((encode_decodeByte b).symm.trans hi)
  exact hb hc

/-- Outside a frame it is discarded (R251). -/
theorem exec_classOther {s : State} {b : Byte} {rest : List Byte} (ho : outsideFrame s.st) (hb : classOther b)
    (hrx : s.rx = b :: rest) : exec (decodeByte b) s = .next (popped rest s) := by
  have notNamed {c : Byte} {i : Instr} := decodeByte_ne_of_classOther (c := c) (i := i) hb
  refine unnamedBytesAreDiscarded s (decodeByte b) b rest (encode_decodeByte b) hrx ?_
  cases hst : s.st with
  | txHsWait => exact .inl ⟨rfl, notNamed rfl (by decide), notNamed rfl (by decide)⟩
  | txBlkWait =>
    exact .inr (.inl ⟨rfl, notNamed rfl (by decide), notNamed rfl (by decide), notNamed rfl (by decide)⟩)
  | txEotWait => exact .inr (.inr (.inl ⟨rfl, notNamed rfl (by decide), notNamed rfl (by decide)⟩))
  | rxHsWait => exact .inr (.inr (.inr (.inl ⟨rfl, notNamed rfl (by decide), notNamed rfl (by decide)⟩)))
  | rxNextWait =>
    exact .inr (.inr (.inr (.inr
      ⟨rfl, notNamed rfl (by decide), notNamed rfl (by decide), notNamed rfl (by decide)⟩)))
  | idle | rxSeq | rxCmpl | rxData | rxDrain | reserved | done => rw [hst] at ho; cases ho

/-! The flood: unread bytes and turns to come. -/

/-- With the bytes rx unread, the schedule c brings no reset and only bytes of the class OTHER, at every instant at
least as many, with the unread ones, as polls so far. -/
structure Flood (rx : List Byte) (c : Schedule) : Prop where
  unread : ∀ b ∈ rx, classOther b
  noReset : ∀ n, c.turn n ≠ .reset
  arriving : ∀ n b, c.turn n = .peer b → classOther b
  enough : ∀ n, polls (c.ahead n) ≤ rx.length + arrivals (c.ahead n)

section
variable {x : Turn} (ts : List Turn)

theorem polls_engine : polls (.engine :: ts) = polls ts + 1 := List.countP_cons_of_pos rfl

theorem polls_of_ne (h : x ≠ .engine) : polls (x :: ts) = polls ts := List.countP_cons_of_neg (by simpa using h)

theorem arrivals_peer (b : Byte) : arrivals (.peer b :: ts) = arrivals ts + 1 := List.countP_cons_of_pos rfl

theorem arrivals_of_ne (h : ∀ b, x ≠ .peer b) : arrivals (x :: ts) = arrivals ts := by
  cases x with
  | peer b => exact absurd rfl (h b)
  | engine | host | timer | bindSrc | reset => exact List.countP_cons_of_neg nofun

end

/-- A turn that neither polls nor brings a byte leaves the flood as it is. -/
theorem Flood.rest {rx : List Byte} {c : Schedule} (h : Flood rx c) (hengine : c.next ≠ .engine)
    (hpeer : ∀ b, c.next ≠ .peer b) : Flood rx c.rest where
  unread := h.unread
  noReset n := h.noReset (n + 1)
  arriving n := h.arriving (n + 1)
  enough n := by
    have hcount := h.enough (n + 1)
    rwa [ahead_succ, polls_of_ne _ hengine, arrivals_of_ne _ hpeer] at hcount

theorem Flood.arrived {rx : List Byte} {c : Schedule} {b : Byte} (h : Flood rx c) (hs : c.next = .peer b) :
    Flood (rx ++ [b]) c.rest where
  unread x hx := by
    rcases List.mem_append.mp hx with hx | hx
    · exact h.unread x hx
    · exact List.mem_singleton.mp hx ▸ h.arriving 0 b hs
  noReset n := h.noReset (n + 1)
  arriving n := h.arriving (n + 1)
  enough n := by
    have hcount := h.enough (n + 1)
    rw [ahead_succ, hs, polls_of_ne (x := .peer b) _ nofun, arrivals_peer] at hcount
    rw [List.length_append, List.length_singleton]
    omega

/-- A poll finds a byte, and the flood goes on behind it. -/
theorem Flood.polled {rx : List Byte} {c : Schedule} (h : Flood rx c) (hs : c.next = .engine) :
    ∃ b rest, rx = b :: rest ∧ classOther b ∧ Flood rest c.rest := by
  cases rx with
  | nil =>
    have hcount := h.enough 1
    rw [ahead_succ, hs, polls_engine, arrivals_of_ne (x := .engine) _ nofun] at hcount
    exact absurd hcount (Nat.not_succ_le_zero _)
  | cons b rest =>
    refine ⟨b, rest, rfl, h.unread b (by simp), ?_⟩
    exact
      { unread := fun x hx => h.unread x (List.mem_cons_of_mem b hx)
        noReset := fun n => h.noReset (n + 1)
        arriving := fun n => h.arriving (n + 1)
        enough := fun n => by
          have hcount := h.enough (n + 1)
          rw [ahead_succ, hs, polls_engine, arrivals_of_ne (x := .engine) _ nofun, List.length_cons] at hcount
          omega }

/-! The session. -/

/-- A session that waits outside a frame under a flood. -/
structure Starved (s : State) : Prop where
  legal : s.reservedField = none
  outside : outsideFrame s.st
  flood : Flood s.rx s.sched

/-- In t the session is where it was in s: the same wait state, no outcome, nothing emitted. -/
def Stalled (s t : State) : Prop := t.st = s.st ∧ t.result = s.result ∧ t.tx = s.tx

/-- A command while BUSY sets CXL at most (R282, R283). -/
theorem step_command_of_busy {s : State} {w : CmdWord} (hs : s.sched.next = .host w) (hr : s.reservedField = none)
    (hb : s.busy = true) : ∃ cxl, step s = .next { s with sched := s.sched.rest, cxl := cxl } := by
  have hstep : step s = exec (decodeCommand w) { s with sched := s.sched.rest } :=
    (step_host hs).trans (hostTurn_eq (s := { s with sched := s.sched.rest }) hr w)
  rcases command_answers_or_refused (decodeCommand_port w) { s with sched := s.sched.rest } with
    ⟨t, ht⟩ | ⟨-, hidle, -⟩
  · have hm := command_move ht
    generalize decodeCommand w = i at hm
    cases hm with
    | ignored => exact ⟨s.cxl, hstep.trans ht⟩
    | cancel => exact ⟨true, hstep.trans ht⟩
    | send _ hidle | receive _ hidle => exact absurd (hb.symm.trans hidle) nofun
  · exact absurd (hb.symm.trans hidle) nofun

/-- Whatever turn comes, a starved session stays where it is and stays starved. -/
theorem Starved.step {s : State} (h : Starved s) : ∃ t, Machine.step s = .next t ∧ Starved t ∧ Stalled s t := by
  have hb : s.busy = true := busy_of_outsideFrame h.outside
  cases hs : s.sched.next with
  | engine =>
    obtain ⟨b, rest, hrx, hother, hflood⟩ := h.flood.polled hs
    have hstep := (step_byte hs h.legal hb hrx).trans
      (exec_classOther (s := { s with sched := s.sched.rest }) h.outside hother hrx)
    exact ⟨_, hstep, ⟨h.legal, h.outside, hflood⟩, rfl, rfl, rfl⟩
  | host w =>
    obtain ⟨cxl, hstep⟩ := step_command_of_busy hs h.legal hb
    exact ⟨_, hstep, ⟨h.legal, h.outside, h.flood.rest (by simp [hs]) (by simp [hs])⟩, rfl, rfl, rfl⟩
  | peer b => exact ⟨_, step_peer hs, ⟨h.legal, h.outside, h.flood.arrived hs⟩, rfl, rfl, rfl⟩
  | timer =>
    obtain ⟨e, -, heq⟩ := elapse_cases { s with sched := s.sched.rest }
    have hstep := (step_timer hs).trans (congrArg Host.Outcome.next heq)
    exact ⟨_, hstep, ⟨h.legal, h.outside, h.flood.rest (by simp [hs]) (by simp [hs])⟩, rfl, rfl, rfl⟩
  | bindSrc bs =>
    exact ⟨_, step_bindSrc hs, ⟨h.legal, h.outside, h.flood.rest (by simp [hs]) (by simp [hs])⟩, rfl, rfl, rfl⟩
  | reset => exact absurd hs (h.flood.noReset 0)

theorem Starved.run (n : Nat) : ∀ {s : State}, Starved s → ∃ t, Host.Core.run core n s = .next t ∧ Stalled s t := by
  induction n with
  | zero => exact fun {s} _ => ⟨s, rfl, rfl, rfl, rfl⟩
  | succ n ih =>
    intro s h
    obtain ⟨u, hstep, hu, hst, hresult, htx⟩ := h.step
    obtain ⟨t, hrun, hst', hresult', htx'⟩ := ih hu
    exact ⟨t, (run_step hstep).trans hrun, hst'.trans hst, hresult'.trans hresult, htx'.trans htx⟩

/-- Settles O60: the premises are those of a starved session. -/
theorem endlessBytesStarveSession : Obligations.EndlessBytesStarveSession := by
  intro s hr hst hunread hturns henough n
  have ho : outsideFrame s.st := by rcases hst with hst | hst | hst | hst | hst <;> rw [hst] <;> trivial
  exact Starved.run n ⟨hr, ho, hunread, fun n => (hturns n).1, fun n => (hturns n).2, henough⟩

end Sys2Proof.Laws
end

section
/-!
PROOFS. Scope: hardware reset (spec/70_reset_and_hazards.md R340, R344): the registers it writes, and the state of
power-on, which is the one a reset makes of itself.
-/

namespace Sys2Proof.Laws

open Sys2Proof Sys2Proof.Machine Sys2Proof.Config Sys2Proof.Safety

/-- Settles O31: the turn is hardwareReset, which leaves FB as the state of power-on has it. -/
theorem hardwareResetValues : Obligations.HardwareResetValues :=
  fun _ hs => ⟨State.reset.fb, step_reset hs⟩

/-- Power-on leaves nothing for a hardware reset to change. -/
theorem hardwareReset_reset : hardwareReset State.reset = State.reset := rfl

theorem params_default_wf : Params.default.wf := by decide

/-- The files, the timer and the parameters of power-on are as every good state has them. -/
theorem reset_common : Common State.reset where
  params := params_default_wf
  ckmLegal := nofun
  pendLegal := nofun
  fbWf := reset_memory_wf
  sptrInSrc := Nat.zero_le _
  srcFits := Nat.two_pow_pos _
  expiredStarted := nofun
  dstWhole := dvd_zero 128

theorem reset_inv : Inv State.reset := hardwareReset_reset ▸ reset_common.inv_hardwareReset

/-- Settles O32: the state is one a hardware reset leaves, and in IDLE the frame law asks nothing. -/
theorem resetStateIsGood : Obligations.ResetStateIsGood :=
  ⟨reset_inv, frameLaw_of_st nofun nofun⟩

end Sys2Proof.Laws
end
